-- ==== Sys2Proof/Word.lean ====
section
/-!
DEFINITION. The widths of the block's values (spec/00_scope.md R5, R6).
-/

namespace Sys2Proof

/-- A nibble: an unsigned 4-bit value, the width `NIB_W` of a buffer entry (R5, R6). -/
abbrev Nibble := BitVec 4

/-- A byte: an unsigned 8-bit value; a wire byte, an identifier (`ID_W`), a record byte (R5, R6). -/
abbrev Byte := BitVec 8

/-- The 16-bit value of an application message (R184). -/
abbrev Half := BitVec 16

/-- The application word, `WORD_W` = 32 bits (R5, R77). -/
abbrev Word32 := BitVec 32

end Sys2Proof
end

