-- ==== Sys2Proof/Config.lean ====
section
/-!
DEFINITION. What an instance of the block fixes (spec/00_scope.md R5, spec/10_state.md R32) and the
free values: constants without a body, so that nothing can be proved of their value.
-/

namespace Sys2Proof

/-- Byte order of a multi-byte field inside a record, the parameter `REC_ENDIAN` (R5, R54, D8). -/
inductive Endian
  | le
  | be
  deriving DecidableEq, Repr, Inhabited

/-- The two OPEN parameters of an instance: read by the rules, written by no transaction (R5, R32). -/
structure Params where
  /-- `BUF_CAP`, the nibble buffer's capacity; R5 asks for at least 8 (`Params.legal`). -/
  bufCap : Nat
  /-- `REC_ENDIAN`. -/
  recEndian : Endian
  deriving DecidableEq, Repr

namespace Config

/-- `START`, the start sentinel (R5). -/
def startByte : Byte := 0xA0

/-- `STOP`, the stop sentinel (R5). -/
def stopByte : Byte := 0x60

/-- `STREAM_ID`, the reserved streaming-request identifier (R5). -/
def streamId : Byte := 100

/-- `TRAILER_NIB`, the trailer's length on the wire in nibbles (R5; 90_conflicts.md C1, C2). -/
def trailerNibbles : Nat := 4

/-- `MIN_BODY`, the least wire body length in nibbles that is accepted (R5, R141). -/
def minBody : Nat := 8

/-- The identifier SEND puts on a request frame (R202). -/
def requestId : Byte := 4

/-- The identifier whose `Dispatch` event the host's response handler consumes (R204). -/
def responseId : Byte := 5

/-- `BUF_CAP` of the instance that `State.reset` stands for is OPEN: this many nibbles above the least
value 8 that R5 allows. DESIGN CHOICE (log 5), safe: no proof can see its value. -/
opaque bufCapExtra : Nat

/-- `REC_ENDIAN` of the instance that `State.reset` stands for, left OPEN. DESIGN CHOICE (log 5), safe. -/
opaque recEndian : Endian

/-- The parameters of the instance `State.reset` stands for. -/
def params : Params := { bufCap := bufCapExtra + 8, recEndian := recEndian }

/-- The value buffer entry `index` takes at draw number `draw`: "any 4-bit value" (R25, R250, I5).
DESIGN CHOICE (log 6), unsafe as a reset value: one unknown value for every run. -/
opaque freeNibble (draw index : Nat) : Nibble

/-- The `size` that registry entry `id` takes at draw number `draw`: "size unspecified" (R26, R250, I7).
DESIGN CHOICE (log 7), unsafe as a reset value: one unknown value for every run. -/
opaque freeSize (draw id : Nat) : Nat

/-- The session word before the first response: "any value" (R201, I8). DESIGN CHOICE (log 8), unsafe as a
reset value: one unknown value for every run. -/
opaque freeWord : Word32

/-- Byte `index` of a response payload that has no such byte, at draw number `draw` (R204 states no value).
DESIGN CHOICE (log 9), safe. -/
opaque freeByte (draw index : Nat) : Byte

end Config

/-- R5: `BUF_CAP >= 8`. -/
abbrev Params.legal (p : Params) : Prop := 8 ≤ p.bufCap

/-- `PMAX`, the largest payload a frame can carry, `floor((BUF_CAP - 6) / 2)` bytes (R5, R146). -/
def Params.pmax (p : Params) : Nat := (p.bufCap - 6) / 2

/-- `CNT_W`, the width of the nibble counter, `ceil(log2(BUF_CAP + 1))` bits (R5, R24). -/
def Params.cntWidth (p : Params) : Nat := Nat.clog 2 (p.bufCap + 1)

end Sys2Proof
end

