-- ==== Sys2Proof/Syntax.lean ====
section
/-!
DEFINITION. The operations of spec/opcode_table.json, one constructor per row, and the transactions that
carry them (spec/30_encoding.md R70, R81).
-/

namespace Sys2Proof

/-- The classes of a wire byte (R72, R120); a `NIBBLE` byte carries its nibble `b[3:0]`. -/
inductive ByteClass
  | start
  | stop
  | nibble (n : Nibble)
  | high
  deriving DecidableEq, Repr

/-- The parser state `st`: `WS` is `WAITING_START`, `WF` is `WAITING_FINISH` (R22). -/
inductive ParserState
  | ws
  | wf
  deriving DecidableEq, Repr

/-- The four logical fields of an application message (R77, R183). -/
structure AppMsg where
  /-- Message type, 3 bits. -/
  type : BitVec 3
  /-- Item id. -/
  item : Byte
  /-- Value high byte. -/
  hb : Byte
  /-- Value low byte. -/
  lb : Byte
  deriving DecidableEq, Repr

/-- The operations of spec/opcode_table.json, in the table's order. -/
inductive Instr
  /-- NIB_SPLIT (R100). -/
  | nibSplit (b : Byte)
  /-- NIB_JOIN (R101). -/
  | nibJoin (h l : Nibble)
  /-- SER_FRAME (R102): identifier and record bytes. -/
  | serFrame (id : Byte) (r : List Byte)
  /-- CLASSIFY of the byte `0xA0` (R120). -/
  | classifyStart
  /-- CLASSIFY of the byte `0x60` (R120). -/
  | classifyStop
  /-- CLASSIFY of a byte `0000nnnn` (R120). -/
  | classifyNibble (n : Nibble)
  /-- CLASSIFY of any other byte (R120). -/
  | classifyHigh (b : Byte)
  /-- DUP_QUAL (R121). -/
  | dupQual (b : Byte) (cnt : Nat)
  /-- WS_START (R131): the byte is `0xA0`. -/
  | wsStart
  /-- WS_IGNORE (R132): any byte but `0xA0`. -/
  | wsIgnore (b : Byte)
  /-- WF_STOP (R133): the byte is `0x60`. -/
  | wfStop
  /-- WF_DUP_START (R134): the byte is `0xA0`. -/
  | wfDupStart
  /-- WF_FRAMING_ABORT (R135): a `HIGH` byte, or `0xA0`. -/
  | wfFramingAbort (b : Byte)
  /-- WF_NIB_APPEND (R136): the byte `0000nnnn`. -/
  | wfNibAppend (n : Nibble)
  /-- WF_ID_PAIR (R137): the byte `0000nnnn`. -/
  | wfIdPair (n : Nibble)
  /-- WF_STREAM_ENTER (R138): the byte is `0x04`. -/
  | wfStreamEnter
  /-- WF_STREAM_BYTE (R139): the byte `0000nnnn`. -/
  | wfStreamByte (n : Nibble)
  /-- WF_OVERFLOW_ABORT (R140): the byte `0000nnnn`. -/
  | wfOverflowAbort (n : Nibble)
  /-- PROCESS_FRAME (R141 to R143): `n` is the wire body length in nibbles. -/
  | processFrame (n : Nat)
  /-- REG_WRITE (R160). -/
  | regWrite (id : Byte) (size : Nat)
  /-- DISPATCH (R161): identifier, payload length `P` and the payload bytes. -/
  | dispatch (id : Byte) (len : Nat) (payload : List Byte)
  /-- PARITY32 (R180). -/
  | parity32 (w : Word32)
  /-- PAR_FORCE (R181). -/
  | parForce (w : Word32)
  /-- MSG_PACK (R182). -/
  | msgPack (type : BitVec 3) (item hb lb : Byte)
  /-- MSG_UNPACK (R183). -/
  | msgUnpack (w : Word32)
  /-- VIEW_U16 (R184). -/
  | viewU16 (hb lb : Byte)
  /-- VIEW_F88 (R185). -/
  | viewF88 (hb lb : Byte)
  /-- WORD_TO_BYTES (R188). -/
  | wordToBytes (w : Word32)
  /-- BYTES_TO_WORD (R188): the four record bytes in record order. -/
  | bytesToWord (r0 r1 r2 r3 : Byte)
  /-- RESET (R250). -/
  | reset
  /-- SEND (R202). -/
  | send (type : BitVec 3) (item hb lb : Byte)
  /-- POLL (R203). -/
  | poll
  /-- RESP_HANDLER (R204): the payload of a `Dispatch(5, p)`. -/
  | respHandler (p : List Byte)
  /-- GET_MESSAGE (R205). -/
  | getMessage
  /-- STOP_SESSION (R206). -/
  | stopSession
  deriving DecidableEq, Repr

/-- The ten operations among which BYTE_IN selects, with the operand the byte gives them (R83, R130). -/
inductive RxOp
  | wsStart
  | wsIgnore (b : Byte)
  | wfStop
  | wfDupStart
  | wfFramingAbort (b : Byte)
  | wfNibAppend (n : Nibble)
  | wfIdPair (n : Nibble)
  | wfStreamEnter
  | wfStreamByte (n : Nibble)
  | wfOverflowAbort (n : Nibble)
  deriving DecidableEq, Repr

/-- The row of the opcode table that a selected receive operation is. -/
def RxOp.toInstr : RxOp → Instr
  | .wsStart => .wsStart
  | .wsIgnore b => .wsIgnore b
  | .wfStop => .wfStop
  | .wfDupStart => .wfDupStart
  | .wfFramingAbort b => .wfFramingAbort b
  | .wfNibAppend n => .wfNibAppend n
  | .wfIdPair n => .wfIdPair n
  | .wfStreamEnter => .wfStreamEnter
  | .wfStreamByte n => .wfStreamByte n
  | .wfOverflowAbort n => .wfOverflowAbort n

/-- Where a transaction arrives. The first four are the ports of R70. A pure operation "has no port" and a
host operation is a call (R70, D2, R202 to R206): the others name the operation called.
DESIGN CHOICE (log 3), safe. The internal operations PROCESS_FRAME, DISPATCH and RESP_HANDLER arrive nowhere
(R141, R161, R204; log 13). -/
inductive Port
  | rxByte
  | txCmd
  | regCfg
  | rst
  | nibSplit
  | nibJoin
  | classify
  | dupQual
  | parity32
  | parForce
  | msgPack
  | msgUnpack
  | viewU16
  | viewF88
  | wordToBytes
  | bytesToWord
  | send
  | poll
  | getMessage
  | stopSession
  deriving DecidableEq, Repr

/-- A transaction: its port with operands of the widths R70 and the operations' rules state. There is no opcode
(R70). A wider operand has no transaction: it "cannot be presented" (R182, D18; log 4). -/
inductive Txn
  | rxByte (b : Byte)
  | txCmd (id : Byte) (r : List Byte)
  | regCfg (id : Byte) (size : Nat)
  | rst
  | nibSplit (b : Byte)
  | nibJoin (h l : Nibble)
  | classify (b : Byte)
  | dupQual (b : Byte) (cnt : Nat)
  | parity32 (w : Word32)
  | parForce (w : Word32)
  | msgPack (type : BitVec 3) (item hb lb : Byte)
  | msgUnpack (w : Word32)
  | viewU16 (hb lb : Byte)
  | viewF88 (hb lb : Byte)
  | wordToBytes (w : Word32)
  | bytesToWord (r0 r1 r2 r3 : Byte)
  | send (type : BitVec 3) (item hb lb : Byte)
  | poll
  | getMessage
  | stopSession
  deriving DecidableEq, Repr

/-- A line of a program (R81) before it is read: a port and the operands as plain numerals, in the order the
operation's rule lists them. DESIGN CHOICE (log 3), safe. -/
structure RawTxn where
  port : Port
  operands : List Nat
  deriving DecidableEq, Repr

/-- One input of the machine: a transaction of the host, or bytes the peer makes available on the
transport, `PEER` (R81, R210, R228). -/
inductive Input
  | txn (t : Txn)
  | peer (bs : List Byte)
  deriving DecidableEq, Repr

end Sys2Proof
end

