-- ==== Sys2Proof/Machine/Operands.lean ====
section
/-!
DEFINITION. Operand assembly, every form of spec/30_encoding.md R78, and the byte, word and record
conversions of U1, U2 and U5. Nothing here reads a state.
-/

namespace Sys2Proof.Machine

/-- `b[7:4]` (R71). -/
def highNibble (b : Byte) : Nibble := b.extractLsb' 4 4

/-- `b[3:0]` (R71). -/
def lowNibble (b : Byte) : Nibble := b.extractLsb' 0 4

/-- `zext_8(n)`: the wire byte that carries nibble `n` (R71, R73). -/
def nibbleByte (n : Nibble) : Byte := n.setWidth 8

/-- NIB_JOIN, `h ++ l`: the byte `(h << 4) | l` (R101; form (a) of R78). -/
def nibJoin (h l : Nibble) : Byte := (h.setWidth 8 <<< 4) ||| l.setWidth 8

/-- NIB_SPLIT: the two wire bytes of a byte, the high nibble's first (R100). -/
def nibSplit (b : Byte) : Byte × Byte := (nibbleByte (highNibble b), nibbleByte (lowNibble b))

/-- CLASSIFY: the sentinels are tested before the top-nibble rule (R72, R120). -/
def classify (b : Byte) : ByteClass :=
  if b = Config.startByte then .start
  else if b = Config.stopByte then .stop
  else if highNibble b = 0 then .nibble (lowNibble b)
  else .high

/-- The wire bytes of a list of logical bytes, each split high nibble first (R53, R102). -/
def splitBytes : List Byte → List Byte
  | [] => []
  | b :: bs => (nibSplit b).1 :: (nibSplit b).2 :: splitBytes bs

/-- The wire frame of a record (R102): start sentinel, identifier, record, four zero trailer bytes (R103),
stop sentinel. -/
def serialize (id : Byte) (r : List Byte) : List Byte :=
  Config.startByte :: (splitBytes (id :: r)
    ++ (List.replicate Config.trailerNibbles 0 ++ [Config.stopByte]))

/-- The unsigned 16-bit value of the two value bytes (R184; form (c) of R78). -/
def viewU16 (hb lb : Byte) : Half := (hb.setWidth 16 <<< 8) ||| lb.setWidth 16

/-- The signed fixed-point value with 8 fractional bits, exact (R185; form (c) of R78). -/
def viewF88 (hb lb : Byte) : Rat := ((viewU16 hb lb).toInt : Rat) / 256

/-- The four fields at their places in the word, parity bit and spare bits 0 (`w0` of R182; R77). -/
def packFields (m : AppMsg) : Word32 :=
  (m.type.setWidth 32 <<< 28) ||| (m.item.setWidth 32 <<< 16)
    ||| (m.hb.setWidth 32 <<< 8) ||| m.lb.setWidth 32

/-- MSG_UNPACK: bit 31 and bits 27 to 24 are ignored (R183). -/
def msgUnpack (w : Word32) : AppMsg :=
  { type := w.extractLsb' 28 3, item := w.extractLsb' 16 8
    hb := w.extractLsb' 8 8, lb := w.extractLsb' 0 8 }

/-- WORD_TO_BYTES: the word's bytes in record order (R188, R54). -/
def wordToBytes (e : Endian) (w : Word32) : List Byte :=
  match e with
  | .le => [w.extractLsb' 0 8, w.extractLsb' 8 8, w.extractLsb' 16 8, w.extractLsb' 24 8]
  | .be => [w.extractLsb' 24 8, w.extractLsb' 16 8, w.extractLsb' 8 8, w.extractLsb' 0 8]

/-- BYTES_TO_WORD: the word of four record bytes (R188, R54; form (d) of R78). -/
def bytesToWord (e : Endian) (r0 r1 r2 r3 : Byte) : Word32 :=
  match e with
  | .le => (r3.setWidth 32 <<< 24) ||| (r2.setWidth 32 <<< 16) ||| (r1.setWidth 32 <<< 8) ||| r0.setWidth 32
  | .be => (r0.setWidth 32 <<< 24) ||| (r1.setWidth 32 <<< 16) ||| (r2.setWidth 32 <<< 8) ||| r3.setWidth 32

/-- The `count` low bytes of a number, least significant first. -/
def littleEndian : (count n : Nat) → List Byte
  | 0, _ => []
  | count + 1, n => BitVec.ofNat 8 n :: littleEndian count (n / 256)

/-- The number whose bytes are given least significant first. -/
def ofLittleEndian : List Byte → Nat
  | [] => 0
  | b :: bs => b.toNat + 256 * ofLittleEndian bs

/-- Between a field's bytes least significant first and the same bytes in record order, either way: `LE` puts the
least significant byte first, `BE` the most significant (R54). -/
def recordOrder (e : Endian) (bs : List Byte) : List Byte :=
  match e with
  | .le => bs
  | .be => bs.reverse

/-- The bytes, in record order, of a number in a field of `width` bytes (R54). -/
def fieldBytes (e : Endian) (width n : Nat) : List Byte := recordOrder e (littleEndian width n)

/-- The number that a field's bytes, in record order, stand for (R54). -/
def fieldNumber (e : Endian) (bs : List Byte) : Nat := ofLittleEndian (recordOrder e bs)

/-- `count` free buffer entries of one draw, from entry `index` on (R25, R250; log 6). -/
def drawNibbles : (count draw index : Nat) → List Nibble
  | 0, _, _ => []
  | count + 1, draw, index => Config.freeNibble draw index :: drawNibbles count draw (index + 1)

end Sys2Proof.Machine
end

