-- ==== Sys2Proof/Machine/Flags.lean ====
section
/-!
DEFINITION. The one-bit computations of the spec: the duplicate-start qualifier (R121), the parity of a word
(R180) with the forcing of it (R181, R182), and the encoding of `st` as a bit (R22). The block has no
arithmetic flags and no condition codes (R29).
-/

namespace Sys2Proof.Machine

/-- DUP_QUAL: a start byte while no nibble is pending (R121). -/
def dupQual (b : Byte) (cnt : Nat) : Bool := b == Config.startByte && cnt == 0

/-- PARITY32: the exclusive or of all 32 bits (R180). -/
def parity32 (w : Word32) : Bool :=
  (List.range 32).foldl (fun p i => p ^^ w.getLsbD i) false

/-- PAR_FORCE: sets the top bit of a word of odd parity (R181; D17). -/
def parForce (w : Word32) : Word32 := if parity32 w then w ||| 0x80000000#32 else w

/-- MSG_PACK: the fields packed, then even parity forced (R182). -/
def msgPack (m : AppMsg) : Word32 := parForce (packFields m)

/-- `st` as a bit where one is needed: `WS = 0`, `WF = 1` (R22, D2). -/
def stBit (p : ParserState) : BitVec 1 :=
  match p with
  | .ws => 0
  | .wf => 1

end Sys2Proof.Machine
end

