-- ==== Sys2Proof/WellFormed.lean ====
section
/-!
DEFINITION. What an operation's operands must be beyond their widths: the byte an operation of the receive
port or of U2 may carry (R120, R132, R135) and the lengths R161 and R204 state.
-/

namespace Sys2Proof

/-- Whether an operation's operands are ones its rule admits. -/
def Instr.wellFormed : Instr → Bool
  | .nibSplit _ => true
  | .nibJoin _ _ => true
  | .serFrame _ _ => true
  | .classifyStart => true
  | .classifyStop => true
  | .classifyNibble _ => true
  | .classifyHigh b => Machine.classify b == .high
  | .dupQual _ _ => true
  | .wsStart => true
  | .wsIgnore b => b != Config.startByte
  | .wfStop => true
  | .wfDupStart => true
  | .wfFramingAbort b => Machine.classify b == .high || b == Config.startByte
  | .wfNibAppend _ => true
  | .wfIdPair _ => true
  | .wfStreamEnter => true
  | .wfStreamByte _ => true
  | .wfOverflowAbort _ => true
  | .processFrame _ => true
  | .regWrite _ _ => true
  | .dispatch _ len payload => len == payload.length
  | .parity32 _ => true
  | .parForce _ => true
  | .msgPack _ _ _ _ => true
  | .msgUnpack _ => true
  | .viewU16 _ _ => true
  | .viewF88 _ _ => true
  | .wordToBytes _ => true
  | .bytesToWord _ _ _ _ => true
  | .reset => true
  | .send _ _ _ _ => true
  | .poll => true
  | .respHandler p => p.length == 5
  | .getMessage => true
  | .stopSession => true

end Sys2Proof
end

