-- ==== Sys2Proof/Decode.lean ====
section
/-!
DEFINITION. From numerals to a transaction, from a transaction to an operation, and back. Reading numerals is total
and rejects by name what no transaction carries. Every transaction is an operation: the receive port has no opcode,
BYTE_IN selects the operation from the byte and the parser's state (spec/30_encoding.md R83,
spec/42_byte_stream_parser.md R130), and every other port is one operation's (R70).
-/

namespace Sys2Proof

open Machine (classify dupQual nibJoin nibbleByte)

/-- What the selection on the receive port reads of the state (R83, R130). -/
structure ParserView where
  st : ParserState
  strm : Bool
  cnt : Nat
  /-- `buf[0]`, the high nibble of the identifier under way. -/
  buf0 : Nibble
  /-- `BUF_CAP`. -/
  bufCap : Nat
  deriving DecidableEq, Repr

/-- Why numerals are no transaction of their port. -/
inductive DecodeError
  /-- The port takes another number of operands. -/
  | wrongArity (port : Port) (given : Nat)
  /-- The operand does not fit the width its rule states: "wider values cannot be presented" (R182, D18). -/
  | operandTooWide (port : Port) (width value : Nat)
  deriving DecidableEq, Repr

/-- BYTE_IN's selection, in the order R130 tests. -/
def selectRx (v : ParserView) (b : Byte) : RxOp :=
  match v.st with
  | .ws => if classify b = .start then .wsStart else .wsIgnore b
  | .wf =>
    match classify b with
    | .stop => .wfStop
    | .start | .high => if dupQual b v.cnt then .wfDupStart else .wfFramingAbort b
    | .nibble n =>
      if v.cnt = v.bufCap then .wfOverflowAbort n
      else if v.cnt = 1 ∧ v.strm = true then .wfStreamByte n
      else if v.cnt = 1 ∧ nibJoin v.buf0 n = Config.streamId then .wfStreamEnter
      else if v.cnt = 1 then .wfIdPair n
      else .wfNibAppend n

/-- The condition each receive-port rule states for its operation (the "Condition" and "Operands" lines of
R131 to R140), and PROCESS_FRAME's ("done only inside rule R133 with `strm = 0`", `n = cnt`, R141).
Every other operation is admitted in every state (R227). -/
def Instr.admitted : Instr → ParserView → Bool
  | .wsStart, v => v.st == .ws
  | .wsIgnore b, v => v.st == .ws && b != Config.startByte
  | .wfStop, v => v.st == .wf
  | .wfDupStart, v => v.st == .wf && v.cnt == 0
  | .wfFramingAbort b, v =>
    v.st == .wf && (Machine.classify b == .high || (b == Config.startByte && v.cnt != 0))
  | .wfNibAppend _, v => v.st == .wf && v.cnt != 1 && v.cnt < v.bufCap
  | .wfIdPair n, v => v.st == .wf && v.cnt == 1 && !v.strm && Machine.nibJoin v.buf0 n != Config.streamId
  | .wfStreamEnter, v => v.st == .wf && v.cnt == 1 && !v.strm && Machine.nibJoin v.buf0 4 == Config.streamId
  | .wfStreamByte _, v => v.st == .wf && v.cnt == 1 && v.strm
  | .wfOverflowAbort _, v => v.st == .wf && v.cnt == v.bufCap
  | .processFrame n, v => v.st == .wf && !v.strm && n == v.cnt
  | .nibSplit _, _ => true
  | .nibJoin _ _, _ => true
  | .serFrame _ _, _ => true
  | .classifyStart, _ => true
  | .classifyStop, _ => true
  | .classifyNibble _, _ => true
  | .classifyHigh _, _ => true
  | .dupQual _ _, _ => true
  | .regWrite _ _, _ => true
  | .dispatch _ _ _, _ => true
  | .parity32 _, _ => true
  | .parForce _, _ => true
  | .msgPack _ _ _ _, _ => true
  | .msgUnpack _, _ => true
  | .viewU16 _ _, _ => true
  | .viewF88 _ _, _ => true
  | .wordToBytes _, _ => true
  | .bytesToWord _ _ _ _, _ => true
  | .reset, _ => true
  | .send _ _ _ _, _ => true
  | .poll, _ => true
  | .respHandler _, _ => true
  | .getMessage, _ => true
  | .stopSession, _ => true

/-- The row of U2 that a classified byte falls under (R72, R120). -/
def classifyInstr (b : Byte) : Instr :=
  match classify b with
  | .start => .classifyStart
  | .stop => .classifyStop
  | .nibble n => .classifyNibble n
  | .high => .classifyHigh b

/-- An operand of `w` bits, or the rejection of a numeral that does not fit. -/
def narrow (p : Port) (w x : Nat) : Except DecodeError (BitVec w) :=
  if x < 2 ^ w then .ok (BitVec.ofNat w x) else .error (.operandTooWide p w x)

/-- A list of byte operands. -/
def narrowBytes (p : Port) : List Nat → Except DecodeError (List Byte)
  | [] => .ok []
  | x :: xs =>
    match narrow p 8 x, narrowBytes p xs with
    | .ok b, .ok bs => .ok (b :: bs)
    | .error e, _ => .error e
    | .ok _, .error e => .error e

/-- No operand. -/
def take0 (p : Port) (ops : List Nat) (i : Txn) : Except DecodeError Txn :=
  match ops with
  | [] => .ok i
  | _ => .error (.wrongArity p ops.length)

/-- One operand of `a` bits. -/
def take1 (p : Port) (a : Nat) (ops : List Nat) (k : BitVec a → Txn) : Except DecodeError Txn :=
  match ops with
  | [x] =>
    match narrow p a x with
    | .ok x => .ok (k x)
    | .error e => .error e
  | _ => .error (.wrongArity p ops.length)

/-- Two operands, of `a` and `b` bits. -/
def take2 (p : Port) (a b : Nat) (ops : List Nat) (k : BitVec a → BitVec b → Txn) : Except DecodeError Txn :=
  match ops with
  | [x, y] =>
    match narrow p a x with
    | .ok x => take1 p b [y] (k x)
    | .error e => .error e
  | _ => .error (.wrongArity p ops.length)

/-- Four operands, the first of `a` bits and three bytes. -/
def take4 (p : Port) (a : Nat) (ops : List Nat) (k : BitVec a → Byte → Byte → Byte → Txn) :
    Except DecodeError Txn :=
  match ops with
  | [x, y, z, u] =>
    match narrow p a x, narrow p 8 y with
    | .ok x, .ok y => take2 p 8 8 [z, u] (k x y)
    | .error e, _ => .error e
    | .ok _, .error e => .error e
  | _ => .error (.wrongArity p ops.length)

/-- A byte and then a natural of any size (REG_WRITE's size, R27; DUP_QUAL's counter, R121). -/
def takeByteNat (p : Port) (ops : List Nat) (k : Byte → Nat → Txn) : Except DecodeError Txn :=
  match ops with
  | [x, n] => take1 p 8 [x] (fun b => k b n)
  | _ => .error (.wrongArity p ops.length)

/-- A byte and then any number of bytes (SER_FRAME, R102). -/
def takeRecord (p : Port) (ops : List Nat) (k : Byte → List Byte → Txn) : Except DecodeError Txn :=
  match ops with
  | [] => .error (.wrongArity p 0)
  | x :: xs =>
    match narrowBytes p xs with
    | .ok r => take1 p 8 [x] (fun b => k b r)
    | .error e => .error e

/-- The transaction that numerals stand for. NIB_JOIN takes the two wire bytes whose low nibbles it joins: "only the
low 4 bits of each operand are used" (R101). -/
def readTxn (r : RawTxn) : Except DecodeError Txn :=
  match r.port with
  | .rxByte => take1 .rxByte 8 r.operands .rxByte
  | .txCmd => takeRecord .txCmd r.operands .txCmd
  | .regCfg => takeByteNat .regCfg r.operands .regCfg
  | .rst => take0 .rst r.operands .rst
  | .nibSplit => take1 .nibSplit 8 r.operands .nibSplit
  | .nibJoin => take2 .nibJoin 8 8 r.operands (fun h l => .nibJoin (Machine.lowNibble h) (Machine.lowNibble l))
  | .classify => take1 .classify 8 r.operands .classify
  | .dupQual => takeByteNat .dupQual r.operands .dupQual
  | .parity32 => take1 .parity32 32 r.operands .parity32
  | .parForce => take1 .parForce 32 r.operands .parForce
  | .msgPack => take4 .msgPack 3 r.operands .msgPack
  | .msgUnpack => take1 .msgUnpack 32 r.operands .msgUnpack
  | .viewU16 => take2 .viewU16 8 8 r.operands .viewU16
  | .viewF88 => take2 .viewF88 8 8 r.operands .viewF88
  | .wordToBytes => take1 .wordToBytes 32 r.operands .wordToBytes
  | .bytesToWord => take4 .bytesToWord 8 r.operands .bytesToWord
  | .send => take4 .send 3 r.operands .send
  | .poll => take0 .poll r.operands .poll
  | .getMessage => take0 .getMessage r.operands .getMessage
  | .stopSession => take0 .stopSession r.operands .stopSession

/-- A transaction written out as numerals. -/
def Txn.raw : Txn → RawTxn
  | .rxByte b => ⟨.rxByte, [b.toNat]⟩
  | .txCmd id r => ⟨.txCmd, id.toNat :: r.map BitVec.toNat⟩
  | .regCfg id size => ⟨.regCfg, [id.toNat, size]⟩
  | .rst => ⟨.rst, []⟩
  | .nibSplit b => ⟨.nibSplit, [b.toNat]⟩
  | .nibJoin h l => ⟨.nibJoin, [h.toNat, l.toNat]⟩
  | .classify b => ⟨.classify, [b.toNat]⟩
  | .dupQual b cnt => ⟨.dupQual, [b.toNat, cnt]⟩
  | .parity32 w => ⟨.parity32, [w.toNat]⟩
  | .parForce w => ⟨.parForce, [w.toNat]⟩
  | .msgPack type item hb lb => ⟨.msgPack, [type.toNat, item.toNat, hb.toNat, lb.toNat]⟩
  | .msgUnpack w => ⟨.msgUnpack, [w.toNat]⟩
  | .viewU16 hb lb => ⟨.viewU16, [hb.toNat, lb.toNat]⟩
  | .viewF88 hb lb => ⟨.viewF88, [hb.toNat, lb.toNat]⟩
  | .wordToBytes w => ⟨.wordToBytes, [w.toNat]⟩
  | .bytesToWord r0 r1 r2 r3 => ⟨.bytesToWord, [r0.toNat, r1.toNat, r2.toNat, r3.toNat]⟩
  | .send type item hb lb => ⟨.send, [type.toNat, item.toNat, hb.toNat, lb.toNat]⟩
  | .poll => ⟨.poll, []⟩
  | .getMessage => ⟨.getMessage, []⟩
  | .stopSession => ⟨.stopSession, []⟩

/-- The operation a transaction asks for, given what the parser's selection reads (R70, R83). -/
def decode (v : ParserView) : Txn → Instr
  | .rxByte b => (selectRx v b).toInstr
  | .txCmd id r => .serFrame id r
  | .regCfg id size => .regWrite id size
  | .rst => .reset
  | .nibSplit b => .nibSplit b
  | .nibJoin h l => .nibJoin h l
  | .classify b => classifyInstr b
  | .dupQual b cnt => .dupQual b cnt
  | .parity32 w => .parity32 w
  | .parForce w => .parForce w
  | .msgPack type item hb lb => .msgPack type item hb lb
  | .msgUnpack w => .msgUnpack w
  | .viewU16 hb lb => .viewU16 hb lb
  | .viewF88 hb lb => .viewF88 hb lb
  | .wordToBytes w => .wordToBytes w
  | .bytesToWord r0 r1 r2 r3 => .bytesToWord r0 r1 r2 r3
  | .send type item hb lb => .send type item hb lb
  | .poll => .poll
  | .getMessage => .getMessage
  | .stopSession => .stopSession

/-- The operation that numerals ask for, or why they are no transaction. -/
def decodeRaw (v : ParserView) (r : RawTxn) : Except DecodeError Instr :=
  match readTxn r with
  | .ok t => .ok (decode v t)
  | .error e => .error e

/-- The transaction that asks for an operation, written from R70 to R73 and the operands' widths; none for the
internal operations, which arrive on no port (R141, R161, R204). -/
def encode : Instr → Option Txn
  | .nibSplit b => some (.nibSplit b)
  | .nibJoin h l => some (.nibJoin h l)
  | .serFrame id r => some (.txCmd id r)
  | .classifyStart => some (.classify 0xA0)
  | .classifyStop => some (.classify 0x60)
  | .classifyNibble n => some (.classify (nibbleByte n))
  | .classifyHigh b => some (.classify b)
  | .dupQual b cnt => some (.dupQual b cnt)
  | .wsStart => some (.rxByte 0xA0)
  | .wsIgnore b => some (.rxByte b)
  | .wfStop => some (.rxByte 0x60)
  | .wfDupStart => some (.rxByte 0xA0)
  | .wfFramingAbort b => some (.rxByte b)
  | .wfNibAppend n => some (.rxByte (nibbleByte n))
  | .wfIdPair n => some (.rxByte (nibbleByte n))
  | .wfStreamEnter => some (.rxByte 0x04)
  | .wfStreamByte n => some (.rxByte (nibbleByte n))
  | .wfOverflowAbort n => some (.rxByte (nibbleByte n))
  | .processFrame _ => none
  | .regWrite id size => some (.regCfg id size)
  | .dispatch _ _ _ => none
  | .parity32 w => some (.parity32 w)
  | .parForce w => some (.parForce w)
  | .msgPack type item hb lb => some (.msgPack type item hb lb)
  | .msgUnpack w => some (.msgUnpack w)
  | .viewU16 hb lb => some (.viewU16 hb lb)
  | .viewF88 hb lb => some (.viewF88 hb lb)
  | .wordToBytes w => some (.wordToBytes w)
  | .bytesToWord r0 r1 r2 r3 => some (.bytesToWord r0 r1 r2 r3)
  | .reset => some .rst
  | .send type item hb lb => some (.send type item hb lb)
  | .poll => some .poll
  | .respHandler _ => none
  | .getMessage => some .getMessage
  | .stopSession => some .stopSession

/-- The bytes of `w`, bit 0 of the first byte the least significant. -/
def wordBytes : (count w : Nat) → List Nat
  | 0, _ => []
  | count + 1, w => w % 256 :: wordBytes count (w / 256)

/-- The numerals of a bit pattern of spec/opcode_table.json, which gives bits to wire bytes and to the
application word only. Bytes are presented on the receive port. A 32-bit word that has MSG_PACK's fixed bits
(27 to 24 zero) asks U5 to pack the fields it shows, the parity bit being a result and not an operand (R77,
R182). Any other word is one to unpack (R183). DESIGN CHOICE (log 16), safe. -/
def tableRaw (nbits w : Nat) : RawTxn :=
  if nbits = 32 then
    if w / 2 ^ 24 % 16 = 0 then
      { port := .msgPack
        operands := [w / 2 ^ 28 % 8, w / 2 ^ 16 % 256, w / 2 ^ 8 % 256, w % 256] }
    else { port := .msgUnpack, operands := [w % 2 ^ 32] }
  else { port := .rxByte, operands := wordBytes (nbits / 8) w }

/-- What the receive port's selection reads right after reset (R33). -/
def resetView : ParserView :=
  { st := .ws, strm := false, cnt := 0, buf0 := Config.freeNibble 0 0, bufCap := Config.params.bufCap }

/-- The instruction the decoder reads from a bit pattern of the table, as the first one after reset (log 16). -/
def decodeTableWord (nbits w : Nat) : Option Instr :=
  match decodeRaw resetView (tableRaw nbits w) with
  | .ok i => some i
  | .error _ => none

end Sys2Proof
end

