-- ==== Sys2Proof/Machine/State.lean ====
section
/-!
DEFINITION. The state of the block and of its host (spec/10_state.md R21, spec/45_session_host.md R201), the
outcomes of a step that are not a next state, and the state after reset (R33, R201, R251).
-/

namespace Sys2Proof.Machine

/-- An entry of the packet registry (R26). -/
structure RegEntry where
  valid : Bool
  /-- Expected payload size in bytes, a natural with no bound (R27). -/
  size : Nat
  deriving DecidableEq, Repr

/-- An entry of the output trace (R28). -/
inductive Event
  /-- One byte written to the transport. -/
  | txByte (b : Byte)
  /-- One call of the streaming callback. -/
  | streamByte (v : Byte)
  /-- The frame-boundary notification. -/
  | frameEnd
  /-- One call of the registered handler of `id` with payload `p`. -/
  | dispatch (id : Byte) (p : List Byte)
  deriving DecidableEq, Repr

/-- The host's session mode (R201); no rule writes the two error modes (R207). -/
inductive SessionMode
  | idle
  | sent
  | received
  | errorProtocol
  | errorTimeout
  deriving DecidableEq, Repr

/-- The value the last pure operation or GET_MESSAGE returned to its caller (R70, R205).
The model's own: DESIGN CHOICE (log 2), safe. -/
inductive Result
  /-- Nothing returned yet. -/
  | none
  /-- NIB_SPLIT. -/
  | bytePair (hi lo : Byte)
  /-- NIB_JOIN. -/
  | byte (v : Byte)
  /-- CLASSIFY. -/
  | cls (c : ByteClass)
  /-- DUP_QUAL, PARITY32. -/
  | bit (b : Bool)
  /-- PAR_FORCE, MSG_PACK, BYTES_TO_WORD. -/
  | word (w : Word32)
  /-- MSG_UNPACK. -/
  | msg (m : AppMsg)
  /-- VIEW_U16. -/
  | u16 (u : Half)
  /-- VIEW_F88, an exact rational number. -/
  | fixed (f : Rat)
  /-- WORD_TO_BYTES. -/
  | bytes (bs : List Byte)
  /-- GET_MESSAGE. -/
  | message (m : Option AppMsg)
  deriving DecidableEq, Repr

/-- A silent error with the value R221 records for it: a ghost label, no output of the hardware. -/
inductive Diag
  | framing (b : Byte)
  | overflow (cnt : Nat)
  | length (n : Nat)
  | unknownId (id : Byte)
  | sizeMismatch (id : Byte) (len size : Nat)
  deriving DecidableEq, Repr

/-- The state of the block (R21) and of its host (R201), with the instance's parameters (R32) and the fields
the model adds for its inputs, returned values, ghost codes and free values. -/
structure State where
  /-- `BUF_CAP` and `REC_ENDIAN`: configuration, never written (R32; log 5). -/
  params : Params
  /-- Parser state (R22). -/
  st : ParserState
  /-- Streaming flag (R23). -/
  strm : Bool
  /-- Nibble counter (R24). -/
  cnt : Nat
  /-- Nibble buffer of `BUF_CAP` entries (R25). -/
  buf : List Nibble
  /-- Packet registry, one entry per 8-bit identifier (R26). -/
  reg : Vector RegEntry 256
  /-- Output trace, oldest event first (R28). -/
  ev : List Event
  /-- Host session mode (R201). -/
  mode : SessionMode
  /-- Host stored response word (R201). -/
  word : Word32
  /-- Bytes the transport holds, oldest first (R201). -/
  rxq : List Byte
  /-- The model's own: inputs still to be presented, the next one first (log 1). -/
  inq : List Input
  /-- The model's own: the value last returned (log 2). -/
  result : Result
  /-- The model's own: ghost diagnostic codes since reset, oldest first (R221; log 11). -/
  diags : List Diag
  /-- The model's own: how many draws of free values have been made (log 18). -/
  draws : Nat
  deriving DecidableEq, Repr

/-- The block raises no exception, so that nothing raises a fault: there is none (R220; log 20), safe. -/
inductive Fault
  deriving DecidableEq, Repr

/-- Why the model gives no next state. -/
inductive Refusal
  /-- Raised by an arm of `exec` whose instruction has no meaning yet (none is left); safe. -/
  | notModelled (mnemonic : String)
  /-- Raised by `exec` for a receive-port or internal operation asked for in a state in which its rule's
  condition fails, so that the spec gives it no effect there (R130 to R141; log 12); safe. `step` never
  raises it in a state that a run reaches. -/
  | notSelected (i : Instr)
  deriving DecidableEq, Repr

/-- The outcome of a step of this machine. -/
abbrev StepOutcome := Host.Outcome State Fault Refusal

/-- The state after power-on: the block's fields as R33 states them, the host's as R201 does. Unspecified
values are free (log 6, log 7, log 8); the parameters are the instance's (log 5). -/
def State.reset : State where
  params := Config.params
  st := .ws
  strm := false
  cnt := 0
  buf := drawNibbles Config.params.bufCap 0 0
  reg := Vector.ofFn fun id => { valid := false, size := Config.freeSize 0 id.val }
  ev := []
  mode := .idle
  word := Config.freeWord
  rxq := []
  inq := []
  result := .none
  diags := []
  draws := 1

end Sys2Proof.Machine
end

