-- ==== Sys2Proof/Machine/Ops.lean ====
section
/-!
DEFINITION. The shared operations over the state: the primitives of spec/00_scope.md R7 and
spec/20_memory.md R51, R52, the two silent recovery actions abort and drop (spec/60_exceptions.md R222, R223),
the response handler (R204), and the fetching of the next input.
-/

namespace Sys2Proof.Machine

/-- `emit E`: append one event to the output trace (R7, R28). -/
def State.emit (s : State) (e : Event) : State := { s with ev := s.ev ++ [e] }

/-- One `TxByte` event for each byte, in order (R102). -/
def State.transmit (s : State) (bs : List Byte) : State :=
  { s with ev := s.ev ++ bs.map Event.txByte }

/-- The value a pure operation or GET_MESSAGE returns (R70, R205; log 2). -/
def State.answer (s : State) (r : Result) : State := { s with result := r }

/-- The ghost label of an error (R221; log 11). -/
def State.label (s : State) (d : Diag) : State := { s with diags := s.diags ++ [d] }

/-- `abort(code)`: back to `WS`, streaming cancelled, no event, `cnt` and `buf` kept (R222). The one operation
by which R135 and R140 recover; there is no saved state and no return (R224). -/
def State.abort (s : State) (d : Diag) : State := { s.label d with st := .ws, strm := false }

/-- `drop(code)`: no event and no state change but the ghost label (R223). The one operation by which R141,
R162 and R163 discard a frame. -/
def State.drop (s : State) (d : Diag) : State := s.label d

/-- `buf[i]` (R51). An index outside the array, which no rule uses, reads a free nibble (log 19). -/
def State.bufRead (s : State) (i : Nat) : Nibble := s.buf.getD i (Config.freeNibble 0 i)

/-- `buf[cnt] <- n; cnt <- cnt + 1`, the only write of the buffer (R51). -/
def State.bufPush (s : State) (n : Nibble) : State :=
  { s with buf := s.buf.set s.cnt n, cnt := s.cnt + 1 }

/-- Every buffer entry takes an unspecified value (R25, R250; log 6). -/
def State.clearBuffer (s : State) : State :=
  { s with buf := drawNibbles s.params.bufCap s.draws 0, draws := s.draws + 1 }

/-- `REG[id]` (R52). -/
def State.regRead (s : State) (id : Byte) : RegEntry := s.reg[id.toNat]

/-- `REG[id] <- e` (R52). -/
def State.regWrite (s : State) (id : Byte) (e : RegEntry) : State :=
  { s with reg := s.reg.set id.toNat e }

/-- A registry with every entry invalid and every size unspecified (R26, R250; log 7). -/
def emptyRegistry (draw : Nat) : Vector RegEntry 256 :=
  Vector.ofFn fun id => { valid := false, size := Config.freeSize draw id.val }

/-- RESET's effect on the block: every field at its reset value (R33, R250). The host's fields, the inputs
still to come and the value last returned are not the block's and stay (log 10). -/
def State.blockReset (s : State) : State :=
  { s with
    st := .ws
    strm := false
    cnt := 0
    buf := drawNibbles s.params.bufCap s.draws 0
    reg := emptyRegistry s.draws
    ev := []
    diags := []
    draws := s.draws + 1 }

/-- Byte `i` of a response payload; one that the payload has not is a free value (R204; log 9). -/
def State.payloadByte (s : State) (p : List Byte) (i : Nat) : Byte :=
  p.getD i (Config.freeByte s.draws i)

/-- RESP_HANDLER: store the payload's word and enter RECEIVED, whatever the mode was (R204). -/
def State.handleResponse (s : State) (p : List Byte) : State :=
  { s with
    word := bytesToWord s.params.recEndian (s.payloadByte p 0) (s.payloadByte p 1)
      (s.payloadByte p 2) (s.payloadByte p 3)
    mode := .received
    draws := if p.length < 4 then s.draws + 1 else s.draws }

/-- What a consumer of `Dispatch(id, p)` does within the step (R164): the host's handler of identifier 5
(R204); other consumers change nothing of the machine (R208). -/
def State.consume (s : State) (id : Byte) (p : List Byte) : State :=
  if id = Config.responseId then s.handleResponse p else s

/-- What the receive port's selection reads (R83, R130). -/
def State.view (s : State) : ParserView :=
  { st := s.st, strm := s.strm, cnt := s.cnt, buf0 := s.bufRead 0, bufCap := s.params.bufCap }

/-- A receive-port or internal operation runs only in the states its rule admits (R130 to R141; log 12). -/
def whenAdmitted (i : Instr) (s t : State) : StepOutcome :=
  if i.admitted s.view then .next t else .refused (.notSelected i)

/-- The next input, and the state once it is taken (R58: it is consumed and never presented again). -/
def State.fetch (s : State) : Option (Input × State) :=
  match s.inq with
  | [] => none
  | x :: rest => some (x, { s with inq := rest })

/-- `PEER`: the peer makes bytes available on the transport, behind those it already holds (R81, R210). -/
def State.deliver (s : State) (bs : List Byte) : State := { s with rxq := s.rxq ++ bs }

/-- `RX`: one BYTE_IN transaction per byte, in order (R81). -/
def rxInputs (bs : List Byte) : List Input := bs.map fun b => .txn (.rxByte b)

/-- `RXF`: the frame SER_FRAME emits for `(id, r)`, presented to the parser (R82). -/
def rxFrame (id : Byte) (r : List Byte) : List Input := rxInputs (serialize id r)

/-- The registration the host makes before its first POLL: `REG 5, 5` (R208, R252). -/
def hostSetup : List Input := [.txn (.regCfg 5 5)]

end Sys2Proof.Machine
end

