-- ==== Sys2Proof/Machine/Detector.lean ====
section
/-!
DEFINITION. U2, the frame sentinel detector: CLASSIFY and DUP_QUAL
(spec/41_frame_sentinel_detector.md R120, R121).
-/

namespace Sys2Proof.Machine

/-- CLASSIFY of `0xA0` (R120). -/
def execClassifyStart (s : State) : StepOutcome := .next (s.answer (.cls (classify 0xA0)))

/-- CLASSIFY of `0x60` (R120). -/
def execClassifyStop (s : State) : StepOutcome := .next (s.answer (.cls (classify 0x60)))

/-- CLASSIFY of a byte with top nibble zero (R120). -/
def execClassifyNibble (n : Nibble) (s : State) : StepOutcome :=
  .next (s.answer (.cls (classify (nibbleByte n))))

/-- CLASSIFY of any other byte (R120). -/
def execClassifyHigh (b : Byte) (s : State) : StepOutcome := .next (s.answer (.cls (classify b)))

/-- DUP_QUAL of a byte and a counter (R121). -/
def execDupQual (b : Byte) (cnt : Nat) (s : State) : StepOutcome :=
  .next (s.answer (.bit (dupQual b cnt)))

end Sys2Proof.Machine
end

