-- ==== Sys2Proof/Machine/Parity.lean ====
section
/-!
DEFINITION. U5, the parity unit and the application-word codec (spec/44_parity_unit.md R180 to R188).
-/

namespace Sys2Proof.Machine

/-- PARITY32 (R180). -/
def execParity32 (w : Word32) (s : State) : StepOutcome := .next (s.answer (.bit (parity32 w)))

/-- PAR_FORCE (R181). -/
def execParForce (w : Word32) (s : State) : StepOutcome := .next (s.answer (.word (parForce w)))

/-- MSG_PACK (R182). -/
def execMsgPack (type : BitVec 3) (item hb lb : Byte) (s : State) : StepOutcome :=
  .next (s.answer (.word (msgPack { type := type, item := item, hb := hb, lb := lb })))

/-- MSG_UNPACK (R183); the word's parity is not checked (R187). -/
def execMsgUnpack (w : Word32) (s : State) : StepOutcome := .next (s.answer (.msg (msgUnpack w)))

/-- VIEW_U16 (R184). -/
def execViewU16 (hb lb : Byte) (s : State) : StepOutcome := .next (s.answer (.u16 (viewU16 hb lb)))

/-- VIEW_F88 (R185). -/
def execViewF88 (hb lb : Byte) (s : State) : StepOutcome := .next (s.answer (.fixed (viewF88 hb lb)))

/-- WORD_TO_BYTES (R188). -/
def execWordToBytes (w : Word32) (s : State) : StepOutcome :=
  .next (s.answer (.bytes (wordToBytes s.params.recEndian w)))

/-- BYTES_TO_WORD (R188). -/
def execBytesToWord (r0 r1 r2 r3 : Byte) (s : State) : StepOutcome :=
  .next (s.answer (.word (bytesToWord s.params.recEndian r0 r1 r2 r3)))

end Sys2Proof.Machine
end

