-- ==== Sys2Proof/Machine/Reset.lean ====
section
/-!
DEFINITION. The RESET transaction of port `rst` (spec/70_reset_and_hazards.md R250).
-/

namespace Sys2Proof.Machine

/-- RESET (R250): it abandons any frame in progress without events. -/
def execReset (s : State) : StepOutcome := .next s.blockReset

end Sys2Proof.Machine
end

