-- ==== Sys2Proof/Machine/Serializer.lean ====
section
/-!
DEFINITION. U1, the frame codec: NIB_SPLIT, NIB_JOIN, SER_FRAME (spec/40_nibble_serializer.md R100 to R103).
-/

namespace Sys2Proof.Machine

/-- NIB_SPLIT (R100). -/
def execNibSplit (b : Byte) (s : State) : StepOutcome :=
  .next (s.answer (.bytePair (nibSplit b).1 (nibSplit b).2))

/-- NIB_JOIN (R101). -/
def execNibJoin (h l : Nibble) (s : State) : StepOutcome := .next (s.answer (.byte (nibJoin h l)))

/-- SER_FRAME: the whole wire frame is emitted in one step; every identifier and length is accepted (R102). -/
def execSerFrame (id : Byte) (r : List Byte) (s : State) : StepOutcome :=
  .next (s.transmit (serialize id r))

end Sys2Proof.Machine
end

