-- ==== Sys2Proof/Machine/Mux.lean ====
section
/-!
DEFINITION. U4, the packet dispatch mux: REG_WRITE and DISPATCH (spec/43_packet_dispatch_mux.md R160 to R166).
-/

namespace Sys2Proof.Machine

/-- DISPATCH: registration is tested before size, and a payload of another size is dropped (R161 to R163). The
event's consumer completes within the step (R164). -/
def State.route (s : State) (id : Byte) (len : Nat) (payload : List Byte) : State :=
  if (s.regRead id).valid = true ∧ (s.regRead id).size = len then
    (s.emit (.dispatch id payload)).consume id payload
  else if (s.regRead id).valid = false then s.drop (.unknownId id)
  else s.drop (.sizeMismatch id len (s.regRead id).size)

/-- REG_WRITE: registers or re-registers, any identifier and any size (R160). -/
def execRegWrite (id : Byte) (size : Nat) (s : State) : StepOutcome :=
  .next (s.regWrite id { valid := true, size := size })

/-- DISPATCH (R161). -/
def execDispatch (id : Byte) (len : Nat) (payload : List Byte) (s : State) : StepOutcome :=
  .next (s.route id len payload)

end Sys2Proof.Machine
end

