-- ==== Sys2Proof/Machine/Parser.lean ====
section
/-!
DEFINITION. U3, the byte stream parser: the ten operations of the receive port, PROCESS_FRAME, and the per-byte
step BYTE_IN (spec/42_byte_stream_parser.md R130 to R144).
-/

namespace Sys2Proof.Machine

/-- A completed frame's fields (R142). The trailer bytes are extracted and used by no rule (R144). -/
structure DecodedFrame where
  id : Byte
  /-- `P`, the payload's length in bytes. -/
  len : Nat
  payload : List Byte
  /-- Trailer byte 0, the earlier on the wire. -/
  t0 : Byte
  /-- Trailer byte 1. -/
  t1 : Byte
  deriving DecidableEq, Repr

/-- The byte of the buffered nibble pair that starts at entry `i` (R53, R78 form (a)). -/
def State.pairAt (s : State) (i : Nat) : Byte := nibJoin (s.bufRead i) (s.bufRead (i + 1))

/-- PROCESS_FRAME's field extraction for a wire body of `n` nibbles (R142). -/
def State.extractFrame (s : State) (n : Nat) : DecodedFrame where
  id := s.pairAt 0
  len := (n - 6) / 2
  payload := (List.range ((n - 6) / 2)).map fun k => s.pairAt (2 + 2 * k)
  t0 := s.pairAt (n - 4)
  t1 := s.pairAt (n - 2)

/-- PROCESS_FRAME: length check, extraction, hand-off to the mux (R141 to R143). -/
def State.processFrame (s : State) (n : Nat) : State :=
  if n < Config.minBody ∨ n % 2 = 1 then s.drop (.length n)
  else s.route (s.extractFrame n).id (s.extractFrame n).len (s.extractFrame n).payload

/-- WS_START's effect (R131): "clear the body buffer" leaves the entries unspecified (D5; log 6). -/
def State.wsStart (s : State) : State :=
  { s.clearBuffer with cnt := 0, strm := false, st := .wf }

/-- WF_STOP's effect (R133): `FrameEnd` first, then the buffered frame is processed; `cnt` and `buf` stay. -/
def State.wfStop (s : State) : State :=
  { (if s.strm then s.emit .frameEnd else (s.emit .frameEnd).processFrame s.cnt) with
    st := .ws, strm := false }

/-- WF_STREAM_ENTER's effect (R138). -/
def State.wfStreamEnter (s : State) : State := { s.bufPush 4 with strm := true, cnt := 0 }

/-- WF_STREAM_BYTE's effect (R139): `v` is read after the low nibble is stored. -/
def State.wfStreamByte (s : State) (n : Nibble) : State :=
  { (s.bufPush n).emit (.streamByte ((s.bufPush n).pairAt 0)) with cnt := 0 }

/-- The effect of a selected receive operation (R131 to R140). -/
def State.receive (s : State) : RxOp → State
  | .wsStart => s.wsStart
  | .wsIgnore _ => s
  | .wfStop => s.wfStop
  | .wfDupStart => s
  | .wfFramingAbort b => s.abort (.framing b)
  | .wfNibAppend n => s.bufPush n
  | .wfIdPair n => s.bufPush n
  | .wfStreamEnter => s.wfStreamEnter
  | .wfStreamByte n => s.wfStreamByte n
  | .wfOverflowAbort _ => s.abort (.overflow s.cnt)

/-- BYTE_IN: one step per wire byte (R130). -/
def State.byteIn (s : State) (b : Byte) : State := s.receive (selectRx s.view b)

/-- WS_START (R131). -/
def execWsStart (s : State) : StepOutcome := whenAdmitted .wsStart s (s.receive .wsStart)

/-- WS_IGNORE: no state change, no event (R132). -/
def execWsIgnore (b : Byte) (s : State) : StepOutcome :=
  whenAdmitted (.wsIgnore b) s (s.receive (.wsIgnore b))

/-- WF_STOP (R133). -/
def execWfStop (s : State) : StepOutcome := whenAdmitted .wfStop s (s.receive .wfStop)

/-- WF_DUP_START: no state change, no event (R134). -/
def execWfDupStart (s : State) : StepOutcome := whenAdmitted .wfDupStart s (s.receive .wfDupStart)

/-- WF_FRAMING_ABORT (R135). -/
def execWfFramingAbort (b : Byte) (s : State) : StepOutcome :=
  whenAdmitted (.wfFramingAbort b) s (s.receive (.wfFramingAbort b))

/-- WF_NIB_APPEND (R136). -/
def execWfNibAppend (n : Nibble) (s : State) : StepOutcome :=
  whenAdmitted (.wfNibAppend n) s (s.receive (.wfNibAppend n))

/-- WF_ID_PAIR (R137): as `cnt = 1`, the append writes `buf[1]` and leaves `cnt = 2`. -/
def execWfIdPair (n : Nibble) (s : State) : StepOutcome :=
  whenAdmitted (.wfIdPair n) s (s.receive (.wfIdPair n))

/-- WF_STREAM_ENTER (R138). -/
def execWfStreamEnter (s : State) : StepOutcome :=
  whenAdmitted .wfStreamEnter s (s.receive .wfStreamEnter)

/-- WF_STREAM_BYTE (R139). -/
def execWfStreamByte (n : Nibble) (s : State) : StepOutcome :=
  whenAdmitted (.wfStreamByte n) s (s.receive (.wfStreamByte n))

/-- WF_OVERFLOW_ABORT (R140): the nibble is not stored. -/
def execWfOverflowAbort (n : Nibble) (s : State) : StepOutcome :=
  whenAdmitted (.wfOverflowAbort n) s (s.receive (.wfOverflowAbort n))

/-- PROCESS_FRAME (R141 to R143), done only inside WF_STOP with `strm = 0` and `n = cnt` (log 13). -/
def execProcessFrame (n : Nat) (s : State) : StepOutcome :=
  whenAdmitted (.processFrame n) s (s.processFrame n)

end Sys2Proof.Machine
end

