-- ==== Sys2Proof/Machine/Session.lean ====
section
/-!
DEFINITION. The host's operations (spec/45_session_host.md R202 to R206).
-/

namespace Sys2Proof.Machine

/-- The transmitted word's record bytes (R202). -/
def State.requestRecord (s : State) (m : AppMsg) : List Byte :=
  wordToBytes s.params.recEndian (msgPack m)

/-- POLL's loop over the transport: while a byte is there it is taken and presented to BYTE_IN, and all that it
triggers is complete before the next is taken (R203). The list is the transport as it stands. -/
def State.drain (s : State) : List Byte → State
  | [] => s
  | b :: rest => (({ s with rxq := rest } : State).byteIn b).drain rest

/-- SEND: in every mode; a stored word is not cleared (R202). -/
def execSend (type : BitVec 3) (item hb lb : Byte) (s : State) : StepOutcome :=
  .next { s.transmit (serialize Config.requestId
      (s.requestRecord { type := type, item := item, hb := hb, lb := lb })) with mode := .sent }

/-- POLL: drains what the transport holds into the block (R203; log 14). -/
def execPoll (s : State) : StepOutcome := .next (s.drain s.rxq)

/-- RESP_HANDLER (R204). -/
def execRespHandler (p : List Byte) (s : State) : StepOutcome := .next (s.handleResponse p)

/-- GET_MESSAGE: the stored word unpacked while the mode is RECEIVED, else none; the mode stays (R205). -/
def execGetMessage (s : State) : StepOutcome :=
  .next (s.answer (.message (if s.mode = .received then some (msgUnpack s.word) else none)))

/-- STOP_SESSION: the mode becomes IDLE; the word is not cleared (R206). -/
def execStopSession (s : State) : StepOutcome := .next { s with mode := .idle }

end Sys2Proof.Machine
end

