-- ==== Sys2Proof/Machine/Dispatch.lean ====
section
/-! DEFINITION. The meaning of every operation: one arm per constructor of `Instr`. -/

namespace Sys2Proof.Machine

def exec (i : Instr) (s : State) : Host.Outcome State Fault Refusal :=
  match i with
  | .nibSplit b => Sys2Proof.Machine.execNibSplit b s
  | .nibJoin h l => Sys2Proof.Machine.execNibJoin h l s
  | .serFrame id r => Sys2Proof.Machine.execSerFrame id r s
  | .classifyStart => Sys2Proof.Machine.execClassifyStart s
  | .classifyStop => Sys2Proof.Machine.execClassifyStop s
  | .classifyNibble n => Sys2Proof.Machine.execClassifyNibble n s
  | .classifyHigh b => Sys2Proof.Machine.execClassifyHigh b s
  | .dupQual b cnt => Sys2Proof.Machine.execDupQual b cnt s
  | .wsStart => Sys2Proof.Machine.execWsStart s
  | .wsIgnore b => Sys2Proof.Machine.execWsIgnore b s
  | .wfStop => Sys2Proof.Machine.execWfStop s
  | .wfDupStart => Sys2Proof.Machine.execWfDupStart s
  | .wfFramingAbort b => Sys2Proof.Machine.execWfFramingAbort b s
  | .wfNibAppend n => Sys2Proof.Machine.execWfNibAppend n s
  | .wfIdPair n => Sys2Proof.Machine.execWfIdPair n s
  | .wfStreamEnter => Sys2Proof.Machine.execWfStreamEnter s
  | .wfStreamByte n => Sys2Proof.Machine.execWfStreamByte n s
  | .wfOverflowAbort n => Sys2Proof.Machine.execWfOverflowAbort n s
  | .processFrame n => Sys2Proof.Machine.execProcessFrame n s
  | .regWrite id size => Sys2Proof.Machine.execRegWrite id size s
  | .dispatch id len payload => Sys2Proof.Machine.execDispatch id len payload s
  | .parity32 w => Sys2Proof.Machine.execParity32 w s
  | .parForce w => Sys2Proof.Machine.execParForce w s
  | .msgPack type item hb lb => Sys2Proof.Machine.execMsgPack type item hb lb s
  | .msgUnpack w => Sys2Proof.Machine.execMsgUnpack w s
  | .viewU16 hb lb => Sys2Proof.Machine.execViewU16 hb lb s
  | .viewF88 hb lb => Sys2Proof.Machine.execViewF88 hb lb s
  | .wordToBytes w => Sys2Proof.Machine.execWordToBytes w s
  | .bytesToWord r0 r1 r2 r3 => Sys2Proof.Machine.execBytesToWord r0 r1 r2 r3 s
  | .reset => Sys2Proof.Machine.execReset s
  | .send type item hb lb => Sys2Proof.Machine.execSend type item hb lb s
  | .poll => Sys2Proof.Machine.execPoll s
  | .respHandler p => Sys2Proof.Machine.execRespHandler p s
  | .getMessage => Sys2Proof.Machine.execGetMessage s
  | .stopSession => Sys2Proof.Machine.execStopSession s

end Sys2Proof.Machine
end

