-- ==== Sys2Proof/Machine/Step.lean ====
section
/-!
DEFINITION. One step of the machine: one input, taken whole (spec/00_scope.md R8, R60), and the presenting of a
bit pattern of the opcode table as the next input.
-/

namespace Sys2Proof.Machine

/-- Runs one transaction in a state from which it is already taken. -/
def runTxn (t : Txn) (s : State) : StepOutcome := exec (decode s.view t) s

/-- One step. With no input the machine waits, which changes no state (R147, R232, I9; log 1). -/
def step (s : State) : StepOutcome :=
  match s.fetch with
  | none => .next s
  | some (.peer bs, s') => .next (s'.deliver bs)
  | some (.txn t, s') => runTxn t s'

/-- `s` with a bit pattern of the opcode table presented next (log 1, log 16). A pattern that is no transaction is
not presented (log 4). -/
def State.withFetchWord (s : State) (nbits w : Nat) : State :=
  match readTxn (tableRaw nbits w) with
  | .ok t => { s with inq := .txn t :: s.inq }
  | .error _ => s

end Sys2Proof.Machine
end

