-- ==== Sys2Proof/Machine/Records.lean ====
section
/-!
DEFINITION. The registered packet types and the layouts of their records (spec/30_encoding.md R75, R76). No rule
of the block reads a field but the payload word of types 4 and 5 (R76); the host registers a type with its
record's size (R160 corner (e), R208).
-/

namespace Sys2Proof.Machine

/-- How a record field's bytes are ordered; `RecField.read` reads a field by it. -/
inductive FieldKind
  /-- A single byte, or bytes the spec gives no inner order: the "32-bit float", the log payload. -/
  | raw
  /-- A 16-bit or 32-bit number in `REC_ENDIAN` order (R54). -/
  | ordered
  deriving DecidableEq, Repr

/-- A record field: its name, where it begins and how long it is, in bytes (R76). -/
structure RecField where
  name : String
  offset : Nat
  width : Nat
  kind : FieldKind
  deriving DecidableEq, Repr

/-- What a field of a record holds. -/
inductive FieldValue
  /-- Of a `raw` field: its bytes in record order. -/
  | bytes (bs : List Byte)
  /-- Of an `ordered` field: a number. -/
  | number (n : Nat)
  deriving DecidableEq, Repr

/-- Whether a value is one the field can hold: of its kind and its width. -/
def RecField.fits (f : RecField) (v : FieldValue) : Bool :=
  match f.kind, v with
  | .raw, .bytes bs => bs.length == f.width
  | .ordered, .number n => decide (n < 256 ^ f.width)
  | .raw, .number _ => false
  | .ordered, .bytes _ => false

/-- The field of a record: its bytes as they stand, or the number they are in `REC_ENDIAN` order (R54, R76). -/
def RecField.read (e : Endian) (f : RecField) (r : List Byte) : FieldValue :=
  match f.kind with
  | .raw => .bytes ((r.drop f.offset).take f.width)
  | .ordered => .number (fieldNumber e ((r.drop f.offset).take f.width))

/-- The bytes by which a record holds a value in the field, a number in `REC_ENDIAN` order (R54, R76). -/
def RecField.write (e : Endian) (f : RecField) (v : FieldValue) : List Byte :=
  match v with
  | .bytes bs => bs
  | .number n => fieldBytes e f.width n

/-- A handler's view "over raw bytes reinterpreted as T": the fields of a record of a layout (R161, R54, R76). -/
def readFields (e : Endian) (fs : List RecField) (r : List Byte) : List FieldValue := fs.map fun f => f.read e r

/-- The record of a layout that holds the values given, its fields one after the other without padding (R54, R76). -/
def writeFields (e : Endian) : List RecField → List FieldValue → List Byte
  | f :: fs, v :: vs => f.write e v ++ writeFields e fs vs
  | _, _ => []

/-- Which way a packet type travels (R75). -/
inductive Direction
  | hostToPeer
  | peerToHost
  deriving DecidableEq, Repr

/-- A row of the packet-type table: identifier, name, direction, and the record's fields in the order the source
lists them, without padding (R75, R76; D7); no record for the streaming request. -/
structure PacketType where
  id : Byte
  name : String
  direction : Direction
  fields : Option (List RecField)
  deriving DecidableEq, Repr

/-- The size `L` of a packet type's record: the sum of its fields' widths (R75). -/
def PacketType.size (p : PacketType) : Option Nat := p.fields.map fun fs => (fs.map RecField.width).sum

/-- The packet types the source defines; "no identifier other than these is defined" (R75, R76). -/
def packetTypes : List PacketType :=
  [ { id := 1, name := "status-probe request", direction := .hostToPeer
      fields := some [⟨"unused padding", 0, 1, .raw⟩] },
    { id := 2, name := "status-probe response", direction := .peerToHost
      fields := some [⟨"CPU version", 0, 1, .raw⟩, ⟨"firmware version", 1, 1, .raw⟩,
        ⟨"board revision", 2, 1, .raw⟩, ⟨"uptime", 3, 4, .ordered⟩] },
    { id := 3, name := "generic status response", direction := .peerToHost
      fields := some [⟨"boiler status bitfield", 0, 4, .ordered⟩, ⟨"external temperature", 4, 4, .raw⟩,
        ⟨"light level", 8, 2, .ordered⟩] },
    { id := 4, name := "application-command request", direction := .hostToPeer
      fields := some [⟨"payload word", 0, 4, .ordered⟩] },
    { id := 5, name := "application-command response", direction := .peerToHost
      fields := some [⟨"payload word", 0, 4, .ordered⟩, ⟨"response status", 4, 1, .raw⟩] },
    { id := 6, name := "log/telemetry request", direction := .hostToPeer
      fields := some [⟨"payload", 0, 25, .raw⟩, ⟨"length", 25, 1, .raw⟩] },
    { id := Config.streamId, name := "streaming request (reserved)", direction := .peerToHost
      fields := none } ]

/-- The row of the table that the identifier field of a frame selects, if it is a defined one (R75). -/
def packetType (id : Byte) : Option PacketType := packetTypes.find? fun p => p.id == id

/-- The wire bytes of a frame whose record has `len` bytes, sentinels included (R73, R75). -/
def wireFrameBytes (len : Nat) : Nat := 2 * len + 8

/-- The nibbles of the wire body of such a frame; a receiver needs a `BUF_CAP` of at least this (R75, R256). -/
def wireBodyNibbles (len : Nat) : Nat := 2 * len + 6

end Sys2Proof.Machine
end

