-- ==== Sys2Proof/Safety.lean ====
section
/-!
DEFINITION. What holds of every state a run reaches (spec/10_state.md R31, spec/00_scope.md R5,
spec/45_session_host.md R207), and the ghost code of a step (spec/60_exceptions.md R221).
-/

namespace Sys2Proof.Machine

/-- The buffer has the capacity R5 asks for and exactly `BUF_CAP` entries (R5, R25). -/
abbrev State.StorageInv (s : State) : Prop :=
  s.params.legal ∧ s.buf.length = s.params.bufCap

/-- The four invariants of R31. -/
abbrev State.ControlInv (s : State) : Prop :=
  s.cnt ≤ s.params.bufCap ∧
  (s.st = .ws → s.strm = false) ∧
  (s.strm = true → s.st = .wf ∧ s.cnt ≤ 1) ∧
  (s.st = .wf ∧ s.strm = false ∧ 2 ≤ s.cnt → s.pairAt 0 ≠ Config.streamId)

/-- What every step keeps. -/
abbrev State.Inv (s : State) : Prop := s.StorageInv ∧ s.ControlInv

/-- The mode is one that some rule writes (R207). -/
abbrev State.ModeLegal (s : State) : Prop := s.mode ≠ .errorProtocol ∧ s.mode ≠ .errorTimeout

/-- The diagnostic codes of R221. -/
def Diag.code : Diag → Nat
  | .framing _ => 1
  | .overflow _ => 2
  | .length _ => 3
  | .unknownId _ => 4
  | .sizeMismatch _ _ _ => 5

/-- The events a step from `s` to `t` appends to the trace. -/
def newEvents (s t : State) : List Event := t.ev.drop s.ev.length

/-- The ghost codes of the errors between `s` and `t`; none stands for code 0 (R221). -/
def newCodes (s t : State) : List Nat := (t.diags.drop s.diags.length).map Diag.code

/-- The value of a 32-bit word's bits counted: `popcount(w)` (R6). -/
def popcount (w : Word32) : Nat := (List.range 32).countP fun i => w.getLsbD i

/-- `n` steps of the machine, ending at the first one that gives no next state. -/
def runSteps : Nat → State → StepOutcome
  | 0, s => .next s
  | n + 1, s =>
    match step s with
    | .next t => runSteps n t
    | .fault f => .fault f
    | .refused r => .refused r

end Sys2Proof.Machine
end

