-- ==== Sys2Proof/Certificates/Slice0/Obligations.lean ====
section
/-!
DEFINITION. The statements for the provers, one `def Obligations.<Name> : Prop` each, listed in
OBLIGATIONS.json. Sections: the state and the step; encoding; U1; U2; U3; U4; U5; reset; the host; frames and
streams as a whole. A next state is written as an update of the state before, so that every field an equation
does not name is unchanged: that is the frame. The value a pure operation returns is read
at `result` (log 2), the ghost label of R221 at `diags` (log 11).
-/

open Sys2Proof Sys2Proof.Machine

/-! ### The state and the step -/

/-- R33, with R201's host fields: what reset leaves; every buffer entry and every invalid size may be anything.
That the result meets the invariants of R31 is the last clause. -/
def Obligations.ResetState : Prop :=
  State.reset.st = .ws ∧ State.reset.strm = false ∧ State.reset.cnt = 0 ∧
  State.reset.buf.length = State.reset.params.bufCap ∧
  (∀ id : Byte, (State.reset.regRead id).valid = false) ∧ State.reset.ev = [] ∧
  State.reset.mode = .idle ∧ State.reset.rxq = [] ∧
  State.reset.Inv

/-- R31: the four invariants (with the buffer's size, R5 and R25) hold at reset and after every step. -/
def Obligations.StepKeepsInvariant : Prop :=
  State.reset.Inv ∧ ∀ s t : State, s.Inv → step s = .next t → t.Inv

/-- R207: no operation and no step writes one of the two error modes, so that no run from IDLE reaches them. -/
def Obligations.NoRuleWritesAnErrorMode : Prop :=
  State.reset.ModeLegal ∧
  (∀ (i : Instr) (s t : State), exec i s = .next t →
    (t.mode = .errorProtocol → s.mode = .errorProtocol) ∧
    (t.mode = .errorTimeout → s.mode = .errorTimeout)) ∧
  (∀ s t : State, s.ModeLegal → step s = .next t → t.ModeLegal)

/-- R32: no transaction writes `BUF_CAP` or `REC_ENDIAN`. (That they stand in the state is the model's, log 5.) -/
def Obligations.ParametersNeverChange : Prop :=
  (∀ (i : Instr) (s t : State), exec i s = .next t → t.params = s.params) ∧
  (∀ s t : State, step s = .next t → t.params = s.params)

/-- R26, R52: only REG_WRITE and RESET write the registry, and REG_WRITE only the entry it names. -/
def Obligations.RegistryWriters : Prop :=
  ∀ (i : Instr) (s t : State), exec i s = .next t → i ≠ .reset → ∀ id : Byte,
    (∀ size : Nat, i ≠ .regWrite id size) → t.regRead id = s.regRead id

/-- R28, R250: the trace only grows, but for RESET, which empties it. -/
def Obligations.TraceOnlyGrows : Prop :=
  ∀ (i : Instr) (s t : State), exec i s = .next t →
    (i = .reset ∧ t.ev = []) ∨ ∃ es : List Event, t.ev = s.ev ++ es

/-- R220: nothing stops the block. From every state of the invariant a step completes, whatever the next input is,
and consumes that input. -/
def Obligations.EveryTransactionCompletes : Prop :=
  ∀ s : State, s.Inv → ∃ u : State, step s = .next u ∧ u.inq = s.inq.tail

/-- A step takes the head of the input queue and runs what it decodes to; the peer's bytes join the transport; with
no input nothing changes. The queue is the model's (log 1). -/
def Obligations.StepRunsDecodedInput : Prop :=
  (∀ (s : State) (t : Txn) (q : List Input), s.inq = .txn t :: q →
    step s = exec (decode s.view t) { s with inq := q }) ∧
  (∀ (s : State) (bs : List Byte) (q : List Input), s.inq = .peer bs :: q →
    step s = .next { s with inq := q, rxq := s.rxq ++ bs }) ∧
  (∀ s : State, s.inq = [] → step s = .next s)

/-! ### Encoding -/

/-- R83, row by row: what the receive port selects from `st`, the byte, `cnt`, `strm` and the completed
identifier. -/
def Obligations.ReceiveSelectionTable : Prop :=
  ∀ (v : ParserView) (b : Byte), 8 ≤ v.bufCap → v.cnt ≤ v.bufCap →
    (v.st = .ws → b = 0xA0 → decode v (.rxByte b) = .wsStart) ∧
    (v.st = .ws → b ≠ 0xA0 → decode v (.rxByte b) = .wsIgnore b) ∧
    (v.st = .wf → b = 0x60 → decode v (.rxByte b) = .wfStop) ∧
    (v.st = .wf → b = 0xA0 → v.cnt = 0 → decode v (.rxByte b) = .wfDupStart) ∧
    (v.st = .wf → b.extractLsb' 4 4 ≠ (0 : BitVec 4) → b ≠ 0x60 → ¬ (b = 0xA0 ∧ v.cnt = 0) →
      decode v (.rxByte b) = .wfFramingAbort b) ∧
    (v.st = .wf → b.extractLsb' 4 4 = (0 : BitVec 4) →
      (v.cnt = v.bufCap → decode v (.rxByte b) = .wfOverflowAbort (b.extractLsb' 0 4)) ∧
      (v.cnt = 1 → v.strm = true → decode v (.rxByte b) = .wfStreamByte (b.extractLsb' 0 4)) ∧
      (v.cnt = 1 → v.strm = false → v.buf0 ++ b.extractLsb' 0 4 = (100 : BitVec 8) →
        decode v (.rxByte b) = .wfStreamEnter) ∧
      (v.cnt = 1 → v.strm = false → v.buf0 ++ b.extractLsb' 0 4 ≠ (100 : BitVec 8) →
        decode v (.rxByte b) = .wfIdPair (b.extractLsb' 0 4)) ∧
      (v.cnt ≠ 1 → v.cnt < v.bufCap → decode v (.rxByte b) = .wfNibAppend (b.extractLsb' 0 4)))

/-- Decoding what `encode` writes gives the operation back, wherever its rule admits it. -/
def Obligations.DecodeOfEncode : Prop :=
  ∀ (i : Instr) (v : ParserView) (t : Txn), 8 ≤ v.bufCap → i.wellFormed = true → i.admitted v = true →
    encode i = some t → decode v t = i

/-- Every transaction decodes to an operation that is well formed, is admitted by its rule's condition, and encodes to
that transaction: no two transactions stand for one operation in one state, and the internal operations never come
from a port. -/
def Obligations.EncodeOfDecode : Prop :=
  ∀ (v : ParserView) (t : Txn), 8 ≤ v.bufCap → v.cnt ≤ v.bufCap →
    (decode v t).wellFormed = true ∧ (decode v t).admitted v = true ∧ encode (decode v t) = some t

/-- Numerals and transactions agree: what a transaction writes is read back as it, and what is read is the numerals it
was written from, but that NIB_JOIN is read from two wire bytes and uses the low 4 bits of each (R101). So no numeral
wider than its operand is read. That is R182's for the message type; for the other operands it is the model's reading
of their widths (log 4), and the numerals are the model's (log 3). -/
def Obligations.NumeralsAndTransactionsAgree : Prop :=
  (∀ t : Txn, readTxn t.raw = .ok t) ∧
  (∀ (r : RawTxn) (t : Txn), readTxn r = .ok t → r.port ≠ .nibJoin → t.raw = r) ∧
  (∀ h l : Byte, readTxn ⟨.nibJoin, [h.toNat, l.toNat]⟩ =
    .ok (.nibJoin (h.extractLsb' 0 4) (l.extractLsb' 0 4)))

/-- A few encodings of the spec, written out: `0xA0` in `WS` and at `cnt = 0` (R131, R134), `0x60` in `WF` (R133),
`0x04` after the nibble 6 (R138), a HIGH byte in `WF` (R135), and MSG_PACK's bits (R77). That a pattern of the
opcode table is read as a byte of the receive port right after reset, or as a word to pack, is the model's choice
(log 16). -/
def Obligations.DecodedWords : Prop :=
  decodeTableWord 8 0xA0 = some .wsStart ∧
  decodeTableWord 8 0x60 = some (.wsIgnore 0x60) ∧
  decode ⟨.wf, false, 0, 0, 64⟩ (.rxByte 0xA0) = .wfDupStart ∧
  decode ⟨.wf, false, 5, 0, 64⟩ (.rxByte 0x60) = .wfStop ∧
  decode ⟨.wf, false, 1, 6, 64⟩ (.rxByte 0x04) = .wfStreamEnter ∧
  decode ⟨.wf, false, 5, 0, 64⟩ (.rxByte 0xF0) = .wfFramingAbort 0xF0 ∧
  decodeTableWord 32 0xB0192800 = some (.msgPack 3 0x19 0x28 0x00)

/-! ### U1 -/

/-- R100: the two results are the byte's nibbles, high first, and both are in class NIBBLE whatever the byte. -/
def Obligations.NibSplitResult : Prop :=
  ∀ (b : Byte) (s : State), ∃ hi lo : Byte,
    exec (.nibSplit b) s = .next { s with result := .bytePair hi lo } ∧
    hi = (b.extractLsb' 4 4).setWidth 8 ∧ lo = (b.extractLsb' 0 4).setWidth 8 ∧
    classify hi = .nibble (b.extractLsb' 4 4) ∧ classify lo = .nibble (b.extractLsb' 0 4)

/-- R101: the byte `h << 4 | l`, and joining what NIB_SPLIT gave is the identity. -/
def Obligations.NibJoinResult : Prop :=
  (∀ (h l : Nibble) (s : State), ∃ v : Byte,
    exec (.nibJoin h l) s = .next { s with result := .byte v } ∧ v.toNat = 16 * h.toNat + l.toNat) ∧
  (∀ (b : Byte) (s : State), ∃ hi lo : Byte,
    exec (.nibSplit b) s = .next { s with result := .bytePair hi lo } ∧
    exec (.nibJoin (hi.extractLsb' 0 4) (lo.extractLsb' 0 4)) s = .next { s with result := .byte b })

/-- R102 with the positions of R73: what SER_FRAME appends to the trace, byte by byte; nothing else changes. -/
def Obligations.SerFrameBytes : Prop :=
  ∀ (id : Byte) (r : List Byte) (s : State), ∃ w : List Byte,
    exec (.serFrame id r) s = .next { s with ev := s.ev ++ w.map Event.txByte } ∧
    w.length = 2 * r.length + 8 ∧ w[0]? = some 0xA0 ∧
    w[1]? = some ((id.extractLsb' 4 4).setWidth 8) ∧ w[2]? = some ((id.extractLsb' 0 4).setWidth 8) ∧
    (∀ (k : Nat) (x : Byte), r[k]? = some x →
      w[3 + 2 * k]? = some ((x.extractLsb' 4 4).setWidth 8) ∧
      w[4 + 2 * k]? = some ((x.extractLsb' 0 4).setWidth 8)) ∧
    (∀ j : Nat, j < 4 → w[2 * r.length + 3 + j]? = some 0) ∧
    w[2 * r.length + 7]? = some 0x60

/-- R104: one START, first; one STOP, last; every other byte a NIBBLE; an even body, of at least 8 nibbles when the
record is not empty. -/
def Obligations.SerFrameShape : Prop :=
  ∀ (id : Byte) (r : List Byte) (s : State), ∃ body : List Byte,
    exec (.serFrame id r) s =
      .next { s with ev := s.ev ++ (0xA0 :: (body ++ [0x60])).map Event.txByte } ∧
    (∀ b ∈ body, ∃ n : Nibble, classify b = .nibble n) ∧
    body.length = 2 * r.length + 6 ∧ body.length % 2 = 0 ∧ (1 ≤ r.length → 8 ≤ body.length)

/-! ### U2 -/

/-- R120: each of the four rows returns its class. -/
def Obligations.ClassifyResults : Prop :=
  ∀ s : State,
    exec .classifyStart s = .next { s with result := .cls .start } ∧
    exec .classifyStop s = .next { s with result := .cls .stop } ∧
    (∀ n : Nibble, exec (.classifyNibble n) s = .next { s with result := .cls (.nibble n) }) ∧
    (∀ b : Byte, b.extractLsb' 4 4 ≠ (0 : BitVec 4) → b ≠ 0xA0 → b ≠ 0x60 →
      exec (.classifyHigh b) s = .next { s with result := .cls .high })

/-- R72: the classes partition the 256 byte values into 1, 1, 16 and 238. -/
def Obligations.ClassesPartitionBytes : Prop :=
  (∀ b : Byte, (classify b = .start ↔ b = 0xA0) ∧ (classify b = .stop ↔ b = 0x60) ∧
    (∀ n : Nibble, classify b = .nibble n ↔ b = n.setWidth 8) ∧
    (classify b = .high ↔ b.extractLsb' 4 4 ≠ (0 : BitVec 4) ∧ b ≠ 0xA0 ∧ b ≠ 0x60)) ∧
  (List.range 256).countP (fun x => decide (classify (BitVec.ofNat 8 x) = .start)) = 1 ∧
  (List.range 256).countP (fun x => decide (classify (BitVec.ofNat 8 x) = .stop)) = 1 ∧
  (List.range 256).countP (fun x => decide (classify (BitVec.ofNat 8 x) = .high)) = 238

/-- R121: the qualifier is 1 exactly for the start byte with no nibble pending. -/
def Obligations.DupQualResult : Prop :=
  ∀ (b : Byte) (cnt : Nat) (s : State),
    exec (.dupQual b cnt) s = .next { s with result := .bit (decide (b = 0xA0 ∧ cnt = 0)) }

/-! ### U3 -/

/-- R131: a start byte in `WS` opens a frame; the cleared buffer's entries may be anything. -/
def Obligations.WsStartOpensFrame : Prop :=
  ∀ s : State, s.st = .ws → ∃ t : State, exec .wsStart s = .next t ∧
    t.buf.length = s.params.bufCap ∧
    t = { s with cnt := 0, strm := false, st := .wf, buf := t.buf, draws := t.draws }

/-- R132, R134: the bytes that have no effect: any but `0xA0` in `WS`, and `0xA0` in `WF` with `cnt = 0`. -/
def Obligations.IgnoredBytesChangeNothing : Prop :=
  (∀ (s : State) (b : Byte), s.st = .ws → b ≠ 0xA0 → exec (.wsIgnore b) s = .next s) ∧
  (∀ s : State, s.st = .wf → s.cnt = 0 → exec .wfDupStart s = .next s)

/-- R133: `FrameEnd` first; then, unless the frame was streaming, PROCESS_FRAME of what is buffered; then `WS` with
streaming cancelled. Nothing else changes. -/
def Obligations.WfStopClosesFrame : Prop :=
  (∀ s : State, s.st = .wf → s.strm = true →
    exec .wfStop s = .next { s with ev := s.ev ++ [.frameEnd], st := .ws, strm := false }) ∧
  (∀ s : State, s.st = .wf → s.strm = false → ∃ u : State,
    exec (.processFrame s.cnt) { s with ev := s.ev ++ [.frameEnd] } = .next u ∧
    exec .wfStop s = .next { u with st := .ws, strm := false })

/-- R133, R141: a short or odd frame gives `FrameEnd` only, with the ghost label LENGTH. -/
def Obligations.WfStopDropsBadLength : Prop :=
  ∀ s : State, s.st = .wf → s.strm = false → s.cnt < 8 ∨ s.cnt % 2 = 1 →
    exec .wfStop s = .next { s with
      ev := s.ev ++ [.frameEnd], diags := s.diags ++ [.length s.cnt], st := .ws, strm := false }

/-- R133, R141 to R143, R161 to R163: a complete frame gives `FrameEnd`, and then `Dispatch` exactly when its
identifier is registered with its payload's size; otherwise it is dropped with the ghost label of R221. A
dispatched identifier 5, whose handler changes the host's state, is `WfStopDeliversResponse`. -/
def Obligations.WfStopRoutesFrame : Prop :=
  ∀ (s : State) (id : Byte) (payload : List Byte),
    s.st = .wf → s.strm = false → 8 ≤ s.cnt → s.cnt % 2 = 0 →
    id = s.bufRead 0 ++ s.bufRead 1 →
    payload = (List.range ((s.cnt - 6) / 2)).map (fun k => s.bufRead (2 + 2 * k) ++ s.bufRead (3 + 2 * k)) →
    (s.regRead id = ⟨true, (s.cnt - 6) / 2⟩ → id ≠ 5 →
      exec .wfStop s = .next { s with
        ev := s.ev ++ [.frameEnd, .dispatch id payload], st := .ws, strm := false }) ∧
    ((s.regRead id).valid = false →
      exec .wfStop s = .next { s with
        ev := s.ev ++ [.frameEnd], diags := s.diags ++ [.unknownId id], st := .ws, strm := false }) ∧
    ((s.regRead id).valid = true → (s.regRead id).size ≠ (s.cnt - 6) / 2 →
      exec .wfStop s = .next { s with
        ev := s.ev ++ [.frameEnd]
        diags := s.diags ++ [.sizeMismatch id ((s.cnt - 6) / 2) (s.regRead id).size]
        st := .ws, strm := false })

/-- R133 with R164: a frame of identifier 5, registered with its payload's size, is dispatched, and the response handler
has run when the step ends. R204 gives the handler a payload of 5 bytes: that it runs on the other sizes the host may
register is the model's reading (log 9), and so is that the host is always attached (log 15). -/
def Obligations.WfStopDeliversResponse : Prop :=
  ∀ (s : State) (payload : List Byte),
    s.st = .wf → s.strm = false → 8 ≤ s.cnt → s.cnt % 2 = 0 →
    s.bufRead 0 ++ s.bufRead 1 = (5 : BitVec 8) →
    payload = (List.range ((s.cnt - 6) / 2)).map (fun k => s.bufRead (2 + 2 * k) ++ s.bufRead (3 + 2 * k)) →
    s.regRead 5 = ⟨true, (s.cnt - 6) / 2⟩ →
    ∃ t : State, exec .wfStop s = .next t ∧
      exec (.respHandler payload)
        { s with ev := s.ev ++ [.frameEnd, .dispatch 5 payload], st := .ws, strm := false } = .next t

/-- R135, R140, R222: both aborts return to `WS` with streaming cancelled, no event, and `cnt` and `buf` kept; the
ghost label is R221's. -/
def Obligations.AbortsReturnToWaiting : Prop :=
  (∀ (s : State) (b : Byte), s.st = .wf →
    (b.extractLsb' 4 4 ≠ (0 : BitVec 4) ∧ b ≠ 0xA0 ∧ b ≠ 0x60) ∨ (b = 0xA0 ∧ s.cnt ≠ 0) →
    exec (.wfFramingAbort b) s =
      .next { s with st := .ws, strm := false, diags := s.diags ++ [.framing b] }) ∧
  (∀ (s : State) (n : Nibble), s.st = .wf → s.cnt = s.params.bufCap →
    exec (.wfOverflowAbort n) s =
      .next { s with st := .ws, strm := false, diags := s.diags ++ [.overflow s.params.bufCap] })

/-- R136: the nibble is stored at `cnt`, every other entry stays, `cnt` grows by 1. -/
def Obligations.NibAppendStoresNibble : Prop :=
  ∀ (s : State) (n : Nibble), s.st = .wf → s.cnt ≠ 1 → s.cnt < s.params.bufCap →
    s.buf.length = s.params.bufCap →
    ∃ t : State, exec (.wfNibAppend n) s = .next t ∧
      t = { s with buf := t.buf, cnt := s.cnt + 1 } ∧ t.buf.length = s.buf.length ∧
      t.bufRead s.cnt = n ∧ ∀ i : Nat, i ≠ s.cnt → t.bufRead i = s.bufRead i

/-- R137: the low nibble of an identifier other than 100 is stored in entry 1 and `cnt` becomes 2. -/
def Obligations.IdPairCompletesIdentifier : Prop :=
  ∀ (s : State) (n : Nibble), s.st = .wf → s.cnt = 1 → s.strm = false → s.Inv →
    s.bufRead 0 ++ n ≠ (100 : BitVec 8) →
    ∃ t : State, exec (.wfIdPair n) s = .next t ∧
      t = { s with buf := t.buf, cnt := 2 } ∧ t.buf.length = s.buf.length ∧
      t.bufRead 1 = n ∧ ∀ i : Nat, i ≠ 1 → t.bufRead i = s.bufRead i

/-- R138: the identifier 100 sets `strm` and returns `cnt` to 0, without an event. -/
def Obligations.StreamEnterSetsStreaming : Prop :=
  ∀ s : State, s.st = .wf → s.cnt = 1 → s.strm = false → s.Inv → s.bufRead 0 = 6 →
    ∃ t : State, exec .wfStreamEnter s = .next t ∧
      t = { s with buf := t.buf, cnt := 0, strm := true } ∧ t.buf.length = s.buf.length ∧
      t.bufRead 1 = 4 ∧ ∀ i : Nat, i ≠ 1 → t.bufRead i = s.bufRead i

/-- R139: each pair of a streaming frame is delivered at once, whatever its value, and `cnt` returns to 0. -/
def Obligations.StreamByteDeliversPair : Prop :=
  ∀ (s : State) (n : Nibble), s.st = .wf → s.cnt = 1 → s.strm = true → s.Inv →
    ∃ t : State, exec (.wfStreamByte n) s = .next t ∧
      t = { s with buf := t.buf, cnt := 0, ev := s.ev ++ [.streamByte (s.bufRead 0 ++ n)] } ∧
      t.buf.length = s.buf.length ∧ t.bufRead 1 = n ∧ ∀ i : Nat, i ≠ 1 → t.bufRead i = s.bufRead i

/-- R141 to R143: a bad length is dropped; otherwise the frame's fields are handed to DISPATCH within the step. -/
def Obligations.ProcessFrameHandsOff : Prop :=
  ∀ s : State, s.st = .wf → s.strm = false →
    (s.cnt < 8 ∨ s.cnt % 2 = 1 →
      exec (.processFrame s.cnt) s = .next { s with diags := s.diags ++ [.length s.cnt] }) ∧
    (8 ≤ s.cnt → s.cnt % 2 = 0 →
      ∃ t : State, exec (.processFrame s.cnt) s = .next t ∧
        exec (.dispatch (s.bufRead 0 ++ s.bufRead 1) ((s.cnt - 6) / 2)
          ((List.range ((s.cnt - 6) / 2)).map fun k => s.bufRead (2 + 2 * k) ++ s.bufRead (3 + 2 * k))) s
          = .next t)

/-! ### U4 -/

/-- R160: the entry named is overwritten, whatever the identifier and the size; no event, no other entry. -/
def Obligations.RegWriteOverwritesEntry : Prop :=
  ∀ (s : State) (id : Byte) (size : Nat), ∃ t : State, exec (.regWrite id size) s = .next t ∧
    t.regRead id = ⟨true, size⟩ ∧ (∀ j : Byte, j ≠ id → t.regRead j = s.regRead j) ∧
    t = { s with reg := t.reg }

/-- R161 to R163: routing to a handler other than the host's response handler (identifier 5 registered and of the
expected size is `DispatchRunsResponseHandler`). -/
def Obligations.DispatchRoutes : Prop :=
  ∀ (s : State) (id : Byte) (payload : List Byte),
    (s.regRead id = ⟨true, payload.length⟩ → id ≠ 5 →
      exec (.dispatch id payload.length payload) s =
        .next { s with ev := s.ev ++ [.dispatch id payload] }) ∧
    ((s.regRead id).valid = false →
      exec (.dispatch id payload.length payload) s =
        .next { s with diags := s.diags ++ [.unknownId id] }) ∧
    ((s.regRead id).valid = true → (s.regRead id).size ≠ payload.length →
      exec (.dispatch id payload.length payload) s =
        .next { s with diags := s.diags ++ [.sizeMismatch id payload.length (s.regRead id).size] })

/-- R161, R164: the event `Dispatch(5, p)` is emitted and its handler RESP_HANDLER runs within the same step. R204 gives
the handler a payload of 5 bytes: that it runs on the other sizes the host may register is the model's reading (log 9),
and so is that the host is always attached (log 15). -/
def Obligations.DispatchRunsResponseHandler : Prop :=
  ∀ (s : State) (p : List Byte), s.regRead 5 = ⟨true, p.length⟩ →
    ∃ t : State, exec (.dispatch 5 p.length p) s = .next t ∧
      exec (.respHandler p) { s with ev := s.ev ++ [.dispatch 5 p] } = .next t

/-- R146, R161, R165: every `Dispatch` event of any step is for an identifier other than 100 that is registered with
exactly the payload's size, between 1 and `PMAX`. -/
def Obligations.DispatchedFramesAreRegistered : Prop :=
  ∀ s t : State, s.Inv → step s = .next t → ∀ (id : Byte) (p : List Byte),
    .dispatch id p ∈ newEvents s t →
      id ≠ 100 ∧ s.regRead id = ⟨true, p.length⟩ ∧ 1 ≤ p.length ∧ p.length ≤ s.params.pmax

/-- R165: identifier 100 is never dispatched, and what the registry holds for it has no influence: a step on any wire
byte, and POLL, do the same whatever it is. -/
def Obligations.RegistryEntry100IsNeverRead : Prop :=
  (∀ s t : State, s.Inv → step s = .next t → ∀ p : List Byte, .dispatch 100 p ∉ newEvents s t) ∧
  (∀ (s : State) (e : RegEntry), s.Inv →
    (∀ (b : Byte) (q : List Input), s.inq = .txn (.rxByte b) :: q →
      ∃ t : State, step s = .next t ∧ step (s.regWrite 100 e) = .next (t.regWrite 100 e)) ∧
    (∃ t : State, exec .poll s = .next t ∧ exec .poll (s.regWrite 100 e) = .next (t.regWrite 100 e)))

/-- R144: the last four nibbles of a frame, its trailer, have no influence on what its STOP does. -/
def Obligations.TrailerIsNeverChecked : Prop :=
  ∀ (s : State) (other : List Nibble), s.Inv → s.st = .wf → s.strm = false → 8 ≤ s.cnt →
    other.length = s.buf.length → (∀ i : Nat, i < s.cnt - 4 → other[i]? = s.buf[i]?) →
    ∃ t : State, exec .wfStop s = .next t ∧ exec .wfStop { s with buf := other } = .next { t with buf := other }

/-! ### U5 -/

/-- R180: the parity bit is `popcount(w) mod 2`. -/
def Obligations.Parity32IsPopcountMod2 : Prop :=
  ∀ (w : Word32) (s : State),
    exec (.parity32 w) s = .next { s with result := .bit (decide (popcount w % 2 = 1)) }

/-- R181: a word of even parity is kept, one of odd parity has its top bit set; with the top bit clear the result
always has even parity, with it set nothing changes. -/
def Obligations.ParForceSetsTopBit : Prop :=
  ∀ (w : Word32) (s : State), ∃ u : Word32,
    exec (.parForce w) s = .next { s with result := .word u } ∧
    (popcount w % 2 = 0 → u = w) ∧ (popcount w % 2 = 1 → u = w ||| 0x80000000#32) ∧
    (w.getLsbD 31 = false → popcount u % 2 = 0) ∧ (w.getLsbD 31 = true → u = w)

/-- R182, R77: each field at its place, spare bits zero, even parity. -/
def Obligations.MsgPackLayout : Prop :=
  ∀ (type : BitVec 3) (item hb lb : Byte) (s : State), ∃ w : Word32,
    exec (.msgPack type item hb lb) s = .next { s with result := .word w } ∧
    w.extractLsb' 28 3 = type ∧ w.extractLsb' 24 4 = (0 : BitVec 4) ∧ w.extractLsb' 16 8 = item ∧
    w.extractLsb' 8 8 = hb ∧ w.extractLsb' 0 8 = lb ∧ popcount w % 2 = 0

/-- R183: the four fields; the parity bit and the spare bits have no influence. -/
def Obligations.MsgUnpackFields : Prop :=
  (∀ (w : Word32) (m : AppMsg) (s : State),
    m = ⟨w.extractLsb' 28 3, w.extractLsb' 16 8, w.extractLsb' 8 8, w.extractLsb' 0 8⟩ →
    exec (.msgUnpack w) s = .next { s with result := .msg m }) ∧
  (∀ (w : Word32) (s : State), exec (.msgUnpack w) s = exec (.msgUnpack (w &&& 0x70FFFFFF#32)) s)

/-- R186: unpacking what was packed gives the four fields back, and what was packed has even parity. -/
def Obligations.PackUnpackRoundTrip : Prop :=
  ∀ (type : BitVec 3) (item hb lb : Byte) (s : State), ∃ w : Word32,
    exec (.msgPack type item hb lb) s = .next { s with result := .word w } ∧
    exec (.msgUnpack w) s =
      .next { s with result := .msg { type := type, item := item, hb := hb, lb := lb } } ∧
    exec (.parity32 w) s = .next { s with result := .bit false }

/-- R184, R185: the unsigned and the signed fixed-point value of the two value bytes, exact, with their ranges. -/
def Obligations.ValueViews : Prop :=
  ∀ (hb lb : Byte) (s : State),
    (∃ u : Half, exec (.viewU16 hb lb) s = .next { s with result := .u16 u } ∧
      u.toNat = 256 * hb.toNat + lb.toNat) ∧
    (∃ f : Rat, exec (.viewF88 hb lb) s = .next { s with result := .fixed f } ∧
      (hb.toNat < 128 → 256 * f = (256 * hb.toNat + lb.toNat : Nat)) ∧
      (128 ≤ hb.toNat → 256 * f = (256 * hb.toNat + lb.toNat : Nat) - 65536) ∧
      -128 ≤ f ∧ f ≤ 127 + 255 / 256)

/-- R188: the bytes of a word in the order `REC_ENDIAN` gives, and that the two conversions are inverse. R54: the
same order for the fields of a record (R76): a 32-bit field is the word of its bytes, a 16-bit field has its least
significant byte first under `LE` and its most significant first under `BE`, the bytes of any other field stand as
they are, and a field reads as what was written to it. -/
def Obligations.WordBytesInverse : Prop :=
  (∀ (w : Word32) (s : State), ∃ a b c d : Byte,
    a = w.extractLsb' 0 8 ∧ b = w.extractLsb' 8 8 ∧ c = w.extractLsb' 16 8 ∧ d = w.extractLsb' 24 8 ∧
    (s.params.recEndian = .le →
      exec (.wordToBytes w) s = .next { s with result := .bytes [a, b, c, d] } ∧
      exec (.bytesToWord a b c d) s = .next { s with result := .word w }) ∧
    (s.params.recEndian = .be →
      exec (.wordToBytes w) s = .next { s with result := .bytes [d, c, b, a] } ∧
      exec (.bytesToWord d c b a) s = .next { s with result := .word w })) ∧
  (∀ (r0 r1 r2 r3 : Byte) (s : State), ∃ w : Word32,
    exec (.bytesToWord r0 r1 r2 r3) s = .next { s with result := .word w } ∧
    exec (.wordToBytes w) s = .next { s with result := .bytes [r0, r1, r2, r3] }) ∧
  (∀ (f : RecField) (pre post : List Byte) (a b : Byte),
    f.kind = .ordered → f.width = 2 → pre.length = f.offset →
    f.read .le (pre ++ [a, b] ++ post) = .number (a.toNat + 256 * b.toNat) ∧
    f.read .be (pre ++ [a, b] ++ post) = .number (256 * a.toNat + b.toNat)) ∧
  (∀ (e : Endian) (f : RecField) (pre post : List Byte) (a b c d : Byte),
    f.kind = .ordered → f.width = 4 → pre.length = f.offset →
    f.read e (pre ++ [a, b, c, d] ++ post) = .number (bytesToWord e a b c d).toNat) ∧
  (∀ (e : Endian) (f : RecField) (pre bs post : List Byte),
    f.kind = .raw → bs.length = f.width → pre.length = f.offset →
    f.read e (pre ++ bs ++ post) = .bytes bs) ∧
  (∀ (e : Endian) (f : RecField) (v : FieldValue) (pre post : List Byte),
    f.fits v = true → pre.length = f.offset →
    (f.write e v).length = f.width ∧ f.read e (pre ++ f.write e v ++ post) = v)

/-! ### Reset -/

/-- R250: RESET from any state puts every field of the block at its reset value. -/
def Obligations.ResetTransaction : Prop :=
  ∀ s : State, ∃ t : State, exec .reset s = .next t ∧
    t.st = .ws ∧ t.strm = false ∧ t.cnt = 0 ∧ (∀ id : Byte, (t.regRead id).valid = false) ∧ t.ev = [] ∧
    t.buf.length = s.params.bufCap

/-- RESET writes nothing else (the draw counter apart, by which the model takes free values, log 18). That the host's
fields stay, and that the ghost labels begin again, is the model's choice (log 10, log 11). -/
def Obligations.ResetFrame : Prop :=
  ∀ s : State, ∃ t : State, exec .reset s = .next t ∧
    t = { s with
      st := .ws, strm := false, cnt := 0, buf := t.buf, reg := t.reg, ev := [], diags := [],
      draws := t.draws }

/-! ### The host -/

/-- R202: SEND is MSG_PACK, WORD_TO_BYTES, SER_FRAME with identifier 4, and `mode <- SENT`, in any mode; it emits 16
bytes. -/
def Obligations.SendEmitsRequest : Prop :=
  ∀ (type : BitVec 3) (item hb lb : Byte) (s : State), ∃ (w : Word32) (r w16 : List Byte),
    exec (.msgPack type item hb lb) s = .next { s with result := .word w } ∧
    exec (.wordToBytes w) s = .next { s with result := .bytes r } ∧
    exec (.serFrame 4 r) s = .next { s with ev := s.ev ++ w16.map Event.txByte } ∧ w16.length = 16 ∧
    exec (.send type item hb lb) s =
      .next { s with ev := s.ev ++ w16.map Event.txByte, mode := .sent }

/-- R203, the loop: with nothing to read POLL does nothing; otherwise it takes the first byte, gives it one BYTE_IN
step of the block, and goes on. -/
def Obligations.PollLoop : Prop :=
  (∀ s : State, s.rxq = [] → exec .poll s = .next s) ∧
  (∀ (s u : State) (b : Byte) (rest : List Byte), s.Inv → s.rxq = b :: rest →
    step { s with rxq := rest, inq := .txn (.rxByte b) :: s.inq } = .next u → exec .poll s = exec .poll u)

/-- R203 as a whole: POLL is one block step per byte the transport holds, in order, and leaves it empty. -/
def Obligations.PollIsOneStepPerByte : Prop :=
  ∀ s : State, s.Inv → ∃ t : State, exec .poll s = .next t ∧ t.rxq = [] ∧ t.inq = s.inq ∧
    runSteps s.rxq.length { s with rxq := [], inq := rxInputs s.rxq } = .next { t with inq := [] }

/-- R204: the word is stored and the mode is RECEIVED, whatever it was; the status byte is not read. -/
def Obligations.RespHandlerStoresWord : Prop :=
  ∀ (s : State) (p0 p1 p2 p3 p4 : Byte), ∃ w : Word32,
    exec (.bytesToWord p0 p1 p2 p3) s = .next { s with result := .word w } ∧
    exec (.respHandler [p0, p1, p2, p3, p4]) s = .next { s with word := w, mode := .received }

/-- The model's reading of a `Dispatch(5, p)` whose payload has another size than 5 (log 9): the first four bytes are
the word; with fewer than four the word may be anything. -/
def Obligations.RespHandlerOnOtherSizes : Prop :=
  (∀ (s : State) (p0 p1 p2 p3 : Byte) (rest : List Byte),
    exec (.respHandler (p0 :: p1 :: p2 :: p3 :: rest)) s =
      .next { s with word := bytesToWord s.params.recEndian p0 p1 p2 p3, mode := .received }) ∧
  (∀ (s : State) (p : List Byte), p.length < 4 → ∃ t : State,
    exec (.respHandler p) s = .next t ∧
    t = { s with word := t.word, mode := .received, draws := t.draws })

/-- R205: the stored word's fields exactly while the mode is RECEIVED; nothing else changes, the mode included. -/
def Obligations.GetMessageReadsWord : Prop :=
  (∀ (s : State) (m : AppMsg), s.mode = .received →
    m = ⟨s.word.extractLsb' 28 3, s.word.extractLsb' 16 8, s.word.extractLsb' 8 8, s.word.extractLsb' 0 8⟩ →
    exec .getMessage s = .next { s with result := .message (some m) }) ∧
  (∀ s : State, s.mode ≠ .received → exec .getMessage s = .next { s with result := .message none })

/-- R206: the mode becomes IDLE and nothing else changes. -/
def Obligations.StopSessionGoesIdle : Prop :=
  ∀ s : State, exec .stopSession s = .next { s with mode := .idle }

/-- R209: the mode becomes RECEIVED only in a step that emits a `Dispatch(5, p)`. -/
def Obligations.OnlyAResponseEntersReceived : Prop :=
  ∀ s t : State, step s = .next t → s.mode ≠ .received → t.mode = .received →
    ∃ p : List Byte, .dispatch 5 p ∈ newEvents s t

/-! ### Frames and streams as a whole -/

/-- R105: the frame SER_FRAME emits for a registered type, presented to the parser in `WS`, or in `WF` with nothing
pending and no streaming, appends exactly `FrameEnd` and the `Dispatch` of the same record. With nibbles pending its
`0xA0` aborts the open frame and the rest is discarded; in streaming sub-mode at a pair boundary its body is
streamed. -/
def Obligations.FrameRoundTrip : Prop :=
  ∀ (s : State) (id : Byte) (r : List Byte) (q : List Input), s.Inv →
    id ≠ 100 → 1 ≤ r.length → r.length ≤ s.params.pmax → s.regRead id = ⟨true, r.length⟩ →
    s.inq = rxFrame id r ++ q →
    ∃ t : State, runSteps (2 * r.length + 8) s = .next t ∧ t.inq = q ∧ t.st = .ws ∧ t.strm = false ∧
      (s.st = .ws ∨ (s.st = .wf ∧ s.cnt = 0 ∧ s.strm = false) →
        t.ev = s.ev ++ [.frameEnd, .dispatch id r]) ∧
      (s.st = .wf → s.cnt ≠ 0 → t.ev = s.ev) ∧
      (s.st = .wf → s.cnt = 0 → s.strm = true →
        t.ev = s.ev ++ ((id :: (r ++ [0, 0])).map Event.streamByte ++ [.frameEnd]))

/-- R145(a): in `WS` every byte before the next `0xA0` has no effect. -/
def Obligations.GarbageIsIgnored : Prop :=
  ∀ (s : State) (bs : List Byte) (q : List Input), s.st = .ws → (∀ b ∈ bs, b ≠ 0xA0) →
    s.inq = rxInputs bs ++ q → runSteps bs.length s = .next { s with inq := q }

/-- R148, R149(c): a frame with identifier 100 delivers every later pair as it comes, whatever the values and however
many, then `FrameEnd`; nothing is dispatched. -/
def Obligations.StreamingFrameEvents : Prop :=
  ∀ (s : State) (vs : List Byte) (q : List Input), s.Inv → s.st = .ws →
    s.inq = rxInputs (0xA0 :: (splitBytes (100 :: vs) ++ [0x60])) ++ q →
    ∃ t : State, runSteps (2 * vs.length + 4) s = .next t ∧ t.inq = q ∧ t.st = .ws ∧ t.strm = false ∧
      t.ev = s.ev ++ (vs.map Event.streamByte ++ [.frameEnd])

/-- R140, R256: a frame whose wire body exceeds `BUF_CAP` is lost to overflow: no event, and the parser waits for the
next frame. -/
def Obligations.OversizedFrameIsLost : Prop :=
  ∀ (s : State) (id : Byte) (r : List Byte) (q : List Input), s.Inv → s.st = .ws →
    id ≠ 100 → s.params.bufCap < 2 * r.length + 6 → s.inq = rxFrame id r ++ q →
    ∃ t : State, runSteps (2 * r.length + 8) s = .next t ∧ t.inq = q ∧ t.st = .ws ∧ t.strm = false ∧
      t.cnt = s.params.bufCap ∧ t.ev = s.ev ∧ t.diags = s.diags ++ [.overflow s.params.bufCap]

/-- R75, R76: the packet-type table, row by row (identifier, direction, record size, wire frame bytes, wire body), the
streaming request without a record; an identifier selects its row and no other identifier has one; fields follow each
other without padding; and SER_FRAME's output for a record of a type's size has the length the table gives. -/
def Obligations.PacketTypeSizes : Prop :=
  packetTypes.map (fun p =>
      (p.id.toNat, p.direction, p.size, p.size.map wireFrameBytes, p.size.map wireBodyNibbles)) =
    [(1, .hostToPeer, some 1, some 10, some 8), (2, .peerToHost, some 7, some 22, some 20),
     (3, .peerToHost, some 10, some 28, some 26), (4, .hostToPeer, some 4, some 16, some 14),
     (5, .peerToHost, some 5, some 18, some 16), (6, .hostToPeer, some 26, some 60, some 58),
     (100, .peerToHost, none, none, none)] ∧
  (∀ p ∈ packetTypes, packetType p.id = some p) ∧
  (∀ id : Byte, packetType id ≠ none → id.toNat ∈ [1, 2, 3, 4, 5, 6, 100]) ∧
  (∀ p ∈ packetTypes, ∀ fs : List RecField, p.fields = some fs → ∀ k : Nat, ∀ f : RecField, fs[k]? = some f →
    f.offset = ((fs.take k).map RecField.width).sum) ∧
  (∀ p ∈ packetTypes, ∀ r : List Byte, p.size = some r.length →
    (serialize p.id r).length = wireFrameBytes r.length)
end

