-- ==== Sys2Proof/Laws/Operands.lean ====
section
/-!
SUPPORT. What the operand forms and the one-bit computations say, once each: nibbles and bytes, the classes, the
serialized frame, the parity of a word.
-/

namespace Sys2Proof.Machine

/-- NIB_JOIN is concatenation, the spec's `h ++ l`. -/
theorem nibJoin_eq_append (h l : Nibble) : nibJoin h l = h ++ l := by
  revert h l; decide +kernel

@[simp] theorem nibJoin_high_low (b : Byte) : nibJoin (highNibble b) (lowNibble b) = b := by
  revert b; decide +kernel

@[simp] theorem highNibble_nibbleByte (n : Nibble) : highNibble (nibbleByte n) = 0 := by
  revert n; decide +kernel

@[simp] theorem lowNibble_nibbleByte (n : Nibble) : lowNibble (nibbleByte n) = n := by
  revert n; decide +kernel

@[simp] theorem nibbleByte_toNat (n : Nibble) : (nibbleByte n).toNat = n.toNat := by
  revert n; decide +kernel

/-- A byte with top nibble zero is the wire byte of its low nibble. -/
theorem nibbleByte_lowNibble {b : Byte} (h : highNibble b = 0) : nibbleByte (lowNibble b) = b := by
  revert b; decide +kernel

@[simp] theorem classify_start : classify 160#8 = .start := by decide

@[simp] theorem classify_stop : classify 96#8 = .stop := by decide

@[simp] theorem classify_startByte : classify Config.startByte = .start := by decide

@[simp] theorem classify_stopByte : classify Config.stopByte = .stop := by decide

@[simp] theorem classify_nibbleByte (n : Nibble) : classify (nibbleByte n) = .nibble n := by
  revert n; decide +kernel

theorem classify_eq_start_iff (b : Byte) : classify b = .start ↔ b = Config.startByte := by
  revert b; decide +kernel

theorem classify_eq_stop_iff (b : Byte) : classify b = .stop ↔ b = Config.stopByte := by
  revert b; decide +kernel

theorem classify_eq_nibble_iff (b : Byte) (n : Nibble) : classify b = .nibble n ↔ b = nibbleByte n := by
  revert b n; decide +kernel

theorem classify_eq_high_iff (b : Byte) :
    classify b = .high ↔ highNibble b ≠ 0 ∧ b ≠ Config.startByte ∧ b ≠ Config.stopByte := by
  revert b; decide +kernel

@[simp] theorem length_splitBytes (bs : List Byte) : (splitBytes bs).length = 2 * bs.length := by
  induction bs with
  | nil => rfl
  | cons b bs ih => simp [splitBytes, ih]; omega

@[simp] theorem length_serialize (id : Byte) (r : List Byte) :
    (serialize id r).length = 2 * r.length + 8 := by
  simp [serialize, Config.trailerNibbles]; omega

/-- Split bytes are nibble bytes. -/
theorem mem_splitBytes {b : Byte} {bs : List Byte} (h : b ∈ splitBytes bs) : ∃ n, b = nibbleByte n := by
  induction bs with
  | nil => simp [splitBytes] at h
  | cons x xs ih =>
    simp only [splitBytes, List.mem_cons] at h
    obtain rfl | rfl | h := h
    · exact ⟨highNibble x, rfl⟩
    · exact ⟨lowNibble x, rfl⟩
    · exact ih h

/-- The two wire bytes of byte `k` stand at `2k` and `2k + 1`. -/
theorem splitBytes_getElem? (bs : List Byte) (k : Nat) :
    (splitBytes bs)[2 * k]? = bs[k]?.map (fun b => nibbleByte (highNibble b)) ∧
    (splitBytes bs)[2 * k + 1]? = bs[k]?.map (fun b => nibbleByte (lowNibble b)) := by
  induction bs generalizing k with
  | nil => simp [splitBytes]
  | cons b bs ih =>
    cases k with
    | zero => simp [splitBytes, nibSplit]
    | succ k =>
      have h : 2 * (k + 1) = 2 * k + 1 + 1 := by omega
      simpa [splitBytes, h] using ih k

@[simp] theorem length_drawNibbles (count draw index : Nat) :
    (drawNibbles count draw index).length = count := by
  induction count generalizing index with
  | zero => rfl
  | succ n ih => simp [drawNibbles, ih]

@[simp] theorem length_littleEndian (count n : Nat) : (littleEndian count n).length = count := by
  induction count generalizing n with
  | zero => rfl
  | succ c ih => simp [littleEndian, ih]

theorem ofLittleEndian_littleEndian (count n : Nat) :
    ofLittleEndian (littleEndian count n) = n % 256 ^ count := by
  induction count generalizing n with
  | zero => simp [littleEndian, ofLittleEndian, Nat.mod_one]
  | succ c ih =>
    rw [Nat.pow_succ', Nat.mod_mul]
    simp [littleEndian, ofLittleEndian, ih]

theorem littleEndian_ofLittleEndian (bs : List Byte) :
    littleEndian bs.length (ofLittleEndian bs) = bs := by
  induction bs with
  | nil => rfl
  | cons b bs ih =>
    have hb : b.toNat < 256 := b.isLt
    have hq : (b.toNat + 256 * ofLittleEndian bs) / 256 = ofLittleEndian bs := by omega
    have hr : BitVec.ofNat 8 (b.toNat + 256 * ofLittleEndian bs) = b := by
      apply BitVec.eq_of_toNat_eq
      simp only [BitVec.toNat_ofNat]
      omega
    simp only [List.length_cons, littleEndian, ofLittleEndian, hq, hr, ih]

@[simp] theorem recordOrder_recordOrder (e : Endian) (bs : List Byte) :
    recordOrder e (recordOrder e bs) = bs := by
  cases e <;> simp [recordOrder]

@[simp] theorem length_recordOrder (e : Endian) (bs : List Byte) : (recordOrder e bs).length = bs.length := by
  cases e <;> simp [recordOrder]

@[simp] theorem length_fieldBytes (e : Endian) (width n : Nat) : (fieldBytes e width n).length = width := by
  simp [fieldBytes]

/-- Reading what was written gives the number back, cut to the field's width. -/
@[simp] theorem fieldNumber_fieldBytes (e : Endian) (width n : Nat) :
    fieldNumber e (fieldBytes e width n) = n % 256 ^ width := by
  simp [fieldNumber, fieldBytes, ofLittleEndian_littleEndian]

/-- Writing what was read gives the bytes back. -/
@[simp] theorem fieldBytes_fieldNumber (e : Endian) (bs : List Byte) :
    fieldBytes e bs.length (fieldNumber e bs) = bs := by
  have h := littleEndian_ofLittleEndian (recordOrder e bs)
  simp only [length_recordOrder] at h
  simp [fieldBytes, fieldNumber, h]

/-- WORD_TO_BYTES is the byte order of a 4-byte field (R54, R188). -/
theorem wordToBytes_eq_fieldBytes (e : Endian) (w : Word32) : wordToBytes e w = fieldBytes e 4 w.toNat := by
  have h : littleEndian 4 w.toNat =
      [w.extractLsb' 0 8, w.extractLsb' 8 8, w.extractLsb' 16 8, w.extractLsb' 24 8] := by
    simp only [littleEndian, List.cons.injEq, and_true]
    refine ⟨?_, ?_, ?_, ?_⟩ <;> apply BitVec.eq_of_toNat_eq <;>
      simp only [BitVec.extractLsb'_toNat, BitVec.toNat_ofNat, Nat.shiftRight_eq_div_pow] <;> omega
  cases e <;> simp [wordToBytes, fieldBytes, recordOrder, h]

/-- A fold of exclusive or is the parity of the number of true terms. -/
theorem foldl_xor_eq_countP {α : Type} (f : α → Bool) (l : List α) (b : Bool) :
    l.foldl (fun p i => p ^^ f i) b = (b ^^ decide (l.countP f % 2 = 1)) := by
  induction l generalizing b with
  | nil => simp
  | cons x xs ih =>
    simp only [List.foldl_cons, ih, List.countP_cons]
    cases hx : f x
    · simp
    · rcases Nat.mod_two_eq_zero_or_one (List.countP f xs) with h | h <;>
        cases b <;> simp [h, Nat.add_mod]

/-- PARITY32 is the number of set bits modulo 2. -/
theorem parity32_eq (w : Word32) :
    parity32 w = decide ((List.range 32).countP (fun i => w.getLsbD i) % 2 = 1) := by
  simp [parity32, foldl_xor_eq_countP]

end Sys2Proof.Machine
end

