-- ==== Sys2Proof/Laws/Decode.lean ====
section
/-!
SUPPORT. What each reader of numerals accepts, once each, and what the receive port selects.
-/

namespace Sys2Proof

open Machine

@[simp] theorem narrow_toNat (p : Port) {w : Nat} (x : BitVec w) : narrow p w x.toNat = .ok x := by
  simp [narrow, x.isLt]

theorem narrow_ok {p : Port} {w n : Nat} {x : BitVec w} (h : narrow p w n = .ok x) : n = x.toNat := by
  unfold narrow at h
  split at h
  · rename_i hn
    injection h with h
    subst h
    simp [Nat.mod_eq_of_lt hn]
  · cases h

@[simp] theorem narrowBytes_map_toNat (p : Port) (r : List Byte) :
    narrowBytes p (r.map BitVec.toNat) = .ok r := by
  induction r with
  | nil => rfl
  | cons b r ih => simp [narrowBytes, ih]

theorem narrowBytes_ok {p : Port} {l : List Nat} {r : List Byte} (h : narrowBytes p l = .ok r) :
    l = r.map BitVec.toNat := by
  induction l generalizing r with
  | nil => simp only [narrowBytes] at h; injection h with h; subst h; rfl
  | cons x xs ih =>
    simp only [narrowBytes] at h
    split at h
    · rename_i b bs hb hbs
      injection h with h
      subst h
      simp [← narrow_ok hb, ← ih hbs]
    · cases h
    · cases h

theorem take0_ok {p : Port} {l : List Nat} {i j : Txn} (h : take0 p l i = .ok j) :
    l = [] ∧ j = i := by
  unfold take0 at h
  split at h
  · injection h with h; exact ⟨rfl, h.symm⟩
  · cases h

theorem take1_ok {p : Port} {a : Nat} {l : List Nat} {k : BitVec a → Txn} {j : Txn}
    (h : take1 p a l k = .ok j) : ∃ x, l = [x.toNat] ∧ j = k x := by
  unfold take1 at h
  split at h
  · split at h
    · rename_i hx
      injection h with h
      exact ⟨_, by rw [narrow_ok hx], h.symm⟩
    · cases h
  · cases h

theorem take2_ok {p : Port} {a b : Nat} {l : List Nat} {k : BitVec a → BitVec b → Txn} {j : Txn}
    (h : take2 p a b l k = .ok j) : ∃ x y, l = [x.toNat, y.toNat] ∧ j = k x y := by
  unfold take2 at h
  split at h
  · split at h
    · rename_i hx
      obtain ⟨y, hy, rfl⟩ := take1_ok h
      injection hy with hy
      exact ⟨_, y, by rw [narrow_ok hx, hy], rfl⟩
    · cases h
  · cases h

theorem take4_ok {p : Port} {a : Nat} {l : List Nat} {k : BitVec a → Byte → Byte → Byte → Txn} {j : Txn}
    (h : take4 p a l k = .ok j) :
    ∃ x y z u, l = [x.toNat, y.toNat, z.toNat, u.toNat] ∧ j = k x y z u := by
  unfold take4 at h
  split at h
  · split at h
    · rename_i hx hy
      obtain ⟨z, u, hzu, rfl⟩ := take2_ok h
      injection hzu with hz hu
      injection hu with hu
      exact ⟨_, _, z, u, by rw [narrow_ok hx, narrow_ok hy, hz, hu], rfl⟩
    · cases h
    · cases h
  · cases h

theorem takeByteNat_ok {p : Port} {l : List Nat} {k : Byte → Nat → Txn} {j : Txn}
    (h : takeByteNat p l k = .ok j) : ∃ (x : Byte) (n : Nat), l = [x.toNat, n] ∧ j = k x n := by
  unfold takeByteNat at h
  split at h
  · obtain ⟨x, hx, rfl⟩ := take1_ok h
    injection hx with hx
    exact ⟨x, _, by rw [hx], rfl⟩
  · cases h

theorem takeRecord_ok {p : Port} {l : List Nat} {k : Byte → List Byte → Txn} {j : Txn}
    (h : takeRecord p l k = .ok j) :
    ∃ (x : Byte) (r : List Byte), l = x.toNat :: r.map BitVec.toNat ∧ j = k x r := by
  unfold takeRecord at h
  split at h
  · cases h
  · split at h
    · rename_i hr
      obtain ⟨x, hx, rfl⟩ := take1_ok h
      injection hx with hx
      exact ⟨x, _, by rw [hx, narrowBytes_ok hr], rfl⟩
    · cases h

/-- A wire byte decodes to what the receive port selects. -/
@[simp] theorem decode_rxByte (v : ParserView) (b : Byte) : decode v (.rxByte b) = (selectRx v b).toInstr := rfl

/-- In `WS` a byte opens a frame or is ignored. -/
theorem selectRx_ws {v : ParserView} (h : v.st = .ws) (b : Byte) :
    selectRx v b = if b = Config.startByte then .wsStart else .wsIgnore b := by
  simp [selectRx, h, classify_eq_start_iff]

@[simp] theorem selectRx_stop {v : ParserView} (h : v.st = .wf) : selectRx v Config.stopByte = .wfStop := by
  simp [selectRx, h]

/-- A nibble byte in `WF`: the order of R130. -/
theorem selectRx_nibble {v : ParserView} (h : v.st = .wf) (n : Nibble) :
    selectRx v (nibbleByte n) =
      if v.cnt = v.bufCap then .wfOverflowAbort n
      else if v.cnt = 1 ∧ v.strm = true then .wfStreamByte n
      else if v.cnt = 1 ∧ nibJoin v.buf0 n = Config.streamId then .wfStreamEnter
      else if v.cnt = 1 then .wfIdPair n
      else .wfNibAppend n := by
  simp [selectRx, h]

/-- A byte in `WF` that is neither the stop byte nor a nibble byte is a duplicate start or an abort. -/
theorem selectRx_other {v : ParserView} (h : v.st = .wf) {b : Byte} (hs : b ≠ Config.stopByte)
    (hn : highNibble b ≠ 0) :
    selectRx v b = if dupQual b v.cnt then .wfDupStart else .wfFramingAbort b := by
  have hc : classify b = .start ∨ classify b = .high := by
    by_cases hb : b = Config.startByte
    · exact .inl ((classify_eq_start_iff b).2 hb)
    · exact .inr ((classify_eq_high_iff b).2 ⟨hn, hb, hs⟩)
  rcases hc with hc | hc <;> simp [selectRx, h, hc]

end Sys2Proof
end

