-- ==== Sys2Proof/Laws/State.lean ====
section
/-!
SUPPORT. One lemma per field per update of the state, each true by unfolding the update once, so that no later
proof unfolds a record update.
-/

namespace Sys2Proof.Machine

section
variable (s : State) (e : Event)

@[simp] theorem State.emit_params : (s.emit e).params = s.params := rfl
@[simp] theorem State.emit_st : (s.emit e).st = s.st := rfl
@[simp] theorem State.emit_strm : (s.emit e).strm = s.strm := rfl
@[simp] theorem State.emit_cnt : (s.emit e).cnt = s.cnt := rfl
@[simp] theorem State.emit_buf : (s.emit e).buf = s.buf := rfl
@[simp] theorem State.emit_reg : (s.emit e).reg = s.reg := rfl
@[simp] theorem State.emit_ev : (s.emit e).ev = s.ev ++ [e] := rfl
@[simp] theorem State.emit_mode : (s.emit e).mode = s.mode := rfl
@[simp] theorem State.emit_word : (s.emit e).word = s.word := rfl
@[simp] theorem State.emit_rxq : (s.emit e).rxq = s.rxq := rfl
@[simp] theorem State.emit_inq : (s.emit e).inq = s.inq := rfl
@[simp] theorem State.emit_result : (s.emit e).result = s.result := rfl
@[simp] theorem State.emit_diags : (s.emit e).diags = s.diags := rfl
@[simp] theorem State.emit_draws : (s.emit e).draws = s.draws := rfl

end

section
variable (s : State) (bs : List Byte)

@[simp] theorem State.transmit_params : (s.transmit bs).params = s.params := rfl
@[simp] theorem State.transmit_st : (s.transmit bs).st = s.st := rfl
@[simp] theorem State.transmit_strm : (s.transmit bs).strm = s.strm := rfl
@[simp] theorem State.transmit_cnt : (s.transmit bs).cnt = s.cnt := rfl
@[simp] theorem State.transmit_buf : (s.transmit bs).buf = s.buf := rfl
@[simp] theorem State.transmit_reg : (s.transmit bs).reg = s.reg := rfl
@[simp] theorem State.transmit_ev : (s.transmit bs).ev = s.ev ++ bs.map Event.txByte := rfl
@[simp] theorem State.transmit_mode : (s.transmit bs).mode = s.mode := rfl
@[simp] theorem State.transmit_word : (s.transmit bs).word = s.word := rfl
@[simp] theorem State.transmit_rxq : (s.transmit bs).rxq = s.rxq := rfl
@[simp] theorem State.transmit_inq : (s.transmit bs).inq = s.inq := rfl
@[simp] theorem State.transmit_result : (s.transmit bs).result = s.result := rfl
@[simp] theorem State.transmit_diags : (s.transmit bs).diags = s.diags := rfl
@[simp] theorem State.transmit_draws : (s.transmit bs).draws = s.draws := rfl

end

section
variable (s : State) (r : Result)

@[simp] theorem State.answer_params : (s.answer r).params = s.params := rfl
@[simp] theorem State.answer_st : (s.answer r).st = s.st := rfl
@[simp] theorem State.answer_strm : (s.answer r).strm = s.strm := rfl
@[simp] theorem State.answer_cnt : (s.answer r).cnt = s.cnt := rfl
@[simp] theorem State.answer_buf : (s.answer r).buf = s.buf := rfl
@[simp] theorem State.answer_reg : (s.answer r).reg = s.reg := rfl
@[simp] theorem State.answer_ev : (s.answer r).ev = s.ev := rfl
@[simp] theorem State.answer_mode : (s.answer r).mode = s.mode := rfl
@[simp] theorem State.answer_word : (s.answer r).word = s.word := rfl
@[simp] theorem State.answer_rxq : (s.answer r).rxq = s.rxq := rfl
@[simp] theorem State.answer_inq : (s.answer r).inq = s.inq := rfl
@[simp] theorem State.answer_result : (s.answer r).result = r := rfl
@[simp] theorem State.answer_diags : (s.answer r).diags = s.diags := rfl
@[simp] theorem State.answer_draws : (s.answer r).draws = s.draws := rfl

end

section
variable (s : State) (d : Diag)

@[simp] theorem State.label_params : (s.label d).params = s.params := rfl
@[simp] theorem State.label_st : (s.label d).st = s.st := rfl
@[simp] theorem State.label_strm : (s.label d).strm = s.strm := rfl
@[simp] theorem State.label_cnt : (s.label d).cnt = s.cnt := rfl
@[simp] theorem State.label_buf : (s.label d).buf = s.buf := rfl
@[simp] theorem State.label_reg : (s.label d).reg = s.reg := rfl
@[simp] theorem State.label_ev : (s.label d).ev = s.ev := rfl
@[simp] theorem State.label_mode : (s.label d).mode = s.mode := rfl
@[simp] theorem State.label_word : (s.label d).word = s.word := rfl
@[simp] theorem State.label_rxq : (s.label d).rxq = s.rxq := rfl
@[simp] theorem State.label_inq : (s.label d).inq = s.inq := rfl
@[simp] theorem State.label_result : (s.label d).result = s.result := rfl
@[simp] theorem State.label_diags : (s.label d).diags = s.diags ++ [d] := rfl
@[simp] theorem State.label_draws : (s.label d).draws = s.draws := rfl

end

section
variable (s : State) (d : Diag)

@[simp] theorem State.abort_params : (s.abort d).params = s.params := rfl
@[simp] theorem State.abort_st : (s.abort d).st = .ws := rfl
@[simp] theorem State.abort_strm : (s.abort d).strm = false := rfl
@[simp] theorem State.abort_cnt : (s.abort d).cnt = s.cnt := rfl
@[simp] theorem State.abort_buf : (s.abort d).buf = s.buf := rfl
@[simp] theorem State.abort_reg : (s.abort d).reg = s.reg := rfl
@[simp] theorem State.abort_ev : (s.abort d).ev = s.ev := rfl
@[simp] theorem State.abort_mode : (s.abort d).mode = s.mode := rfl
@[simp] theorem State.abort_word : (s.abort d).word = s.word := rfl
@[simp] theorem State.abort_rxq : (s.abort d).rxq = s.rxq := rfl
@[simp] theorem State.abort_inq : (s.abort d).inq = s.inq := rfl
@[simp] theorem State.abort_result : (s.abort d).result = s.result := rfl
@[simp] theorem State.abort_diags : (s.abort d).diags = s.diags ++ [d] := rfl
@[simp] theorem State.abort_draws : (s.abort d).draws = s.draws := rfl

end

section
variable (s : State) (d : Diag)

@[simp] theorem State.drop_params : (s.drop d).params = s.params := rfl
@[simp] theorem State.drop_st : (s.drop d).st = s.st := rfl
@[simp] theorem State.drop_strm : (s.drop d).strm = s.strm := rfl
@[simp] theorem State.drop_cnt : (s.drop d).cnt = s.cnt := rfl
@[simp] theorem State.drop_buf : (s.drop d).buf = s.buf := rfl
@[simp] theorem State.drop_reg : (s.drop d).reg = s.reg := rfl
@[simp] theorem State.drop_ev : (s.drop d).ev = s.ev := rfl
@[simp] theorem State.drop_mode : (s.drop d).mode = s.mode := rfl
@[simp] theorem State.drop_word : (s.drop d).word = s.word := rfl
@[simp] theorem State.drop_rxq : (s.drop d).rxq = s.rxq := rfl
@[simp] theorem State.drop_inq : (s.drop d).inq = s.inq := rfl
@[simp] theorem State.drop_result : (s.drop d).result = s.result := rfl
@[simp] theorem State.drop_diags : (s.drop d).diags = s.diags ++ [d] := rfl
@[simp] theorem State.drop_draws : (s.drop d).draws = s.draws := rfl

end

section
variable (s : State) (n : Nibble)

@[simp] theorem State.bufPush_params : (s.bufPush n).params = s.params := rfl
@[simp] theorem State.bufPush_st : (s.bufPush n).st = s.st := rfl
@[simp] theorem State.bufPush_strm : (s.bufPush n).strm = s.strm := rfl
@[simp] theorem State.bufPush_cnt : (s.bufPush n).cnt = s.cnt + 1 := rfl
@[simp] theorem State.bufPush_buf : (s.bufPush n).buf = s.buf.set s.cnt n := rfl
@[simp] theorem State.bufPush_reg : (s.bufPush n).reg = s.reg := rfl
@[simp] theorem State.bufPush_ev : (s.bufPush n).ev = s.ev := rfl
@[simp] theorem State.bufPush_mode : (s.bufPush n).mode = s.mode := rfl
@[simp] theorem State.bufPush_word : (s.bufPush n).word = s.word := rfl
@[simp] theorem State.bufPush_rxq : (s.bufPush n).rxq = s.rxq := rfl
@[simp] theorem State.bufPush_inq : (s.bufPush n).inq = s.inq := rfl
@[simp] theorem State.bufPush_result : (s.bufPush n).result = s.result := rfl
@[simp] theorem State.bufPush_diags : (s.bufPush n).diags = s.diags := rfl
@[simp] theorem State.bufPush_draws : (s.bufPush n).draws = s.draws := rfl

end

section
variable (s : State)

@[simp] theorem State.clearBuffer_params : (s.clearBuffer).params = s.params := rfl
@[simp] theorem State.clearBuffer_st : (s.clearBuffer).st = s.st := rfl
@[simp] theorem State.clearBuffer_strm : (s.clearBuffer).strm = s.strm := rfl
@[simp] theorem State.clearBuffer_cnt : (s.clearBuffer).cnt = s.cnt := rfl
@[simp] theorem State.clearBuffer_buf : (s.clearBuffer).buf = drawNibbles s.params.bufCap s.draws 0 := rfl
@[simp] theorem State.clearBuffer_reg : (s.clearBuffer).reg = s.reg := rfl
@[simp] theorem State.clearBuffer_ev : (s.clearBuffer).ev = s.ev := rfl
@[simp] theorem State.clearBuffer_mode : (s.clearBuffer).mode = s.mode := rfl
@[simp] theorem State.clearBuffer_word : (s.clearBuffer).word = s.word := rfl
@[simp] theorem State.clearBuffer_rxq : (s.clearBuffer).rxq = s.rxq := rfl
@[simp] theorem State.clearBuffer_inq : (s.clearBuffer).inq = s.inq := rfl
@[simp] theorem State.clearBuffer_result : (s.clearBuffer).result = s.result := rfl
@[simp] theorem State.clearBuffer_diags : (s.clearBuffer).diags = s.diags := rfl
@[simp] theorem State.clearBuffer_draws : (s.clearBuffer).draws = s.draws + 1 := rfl

end

section
variable (s : State) (id : Byte) (e : RegEntry)

@[simp] theorem State.regWrite_params : (s.regWrite id e).params = s.params := rfl
@[simp] theorem State.regWrite_st : (s.regWrite id e).st = s.st := rfl
@[simp] theorem State.regWrite_strm : (s.regWrite id e).strm = s.strm := rfl
@[simp] theorem State.regWrite_cnt : (s.regWrite id e).cnt = s.cnt := rfl
@[simp] theorem State.regWrite_buf : (s.regWrite id e).buf = s.buf := rfl
@[simp] theorem State.regWrite_reg : (s.regWrite id e).reg = s.reg.set id.toNat e := rfl
@[simp] theorem State.regWrite_ev : (s.regWrite id e).ev = s.ev := rfl
@[simp] theorem State.regWrite_mode : (s.regWrite id e).mode = s.mode := rfl
@[simp] theorem State.regWrite_word : (s.regWrite id e).word = s.word := rfl
@[simp] theorem State.regWrite_rxq : (s.regWrite id e).rxq = s.rxq := rfl
@[simp] theorem State.regWrite_inq : (s.regWrite id e).inq = s.inq := rfl
@[simp] theorem State.regWrite_result : (s.regWrite id e).result = s.result := rfl
@[simp] theorem State.regWrite_diags : (s.regWrite id e).diags = s.diags := rfl
@[simp] theorem State.regWrite_draws : (s.regWrite id e).draws = s.draws := rfl

end

section
variable (s : State)

@[simp] theorem State.blockReset_params : (s.blockReset).params = s.params := rfl
@[simp] theorem State.blockReset_st : (s.blockReset).st = .ws := rfl
@[simp] theorem State.blockReset_strm : (s.blockReset).strm = false := rfl
@[simp] theorem State.blockReset_cnt : (s.blockReset).cnt = 0 := rfl
@[simp] theorem State.blockReset_buf : (s.blockReset).buf = drawNibbles s.params.bufCap s.draws 0 := rfl
@[simp] theorem State.blockReset_reg : (s.blockReset).reg = emptyRegistry s.draws := rfl
@[simp] theorem State.blockReset_ev : (s.blockReset).ev = [] := rfl
@[simp] theorem State.blockReset_mode : (s.blockReset).mode = s.mode := rfl
@[simp] theorem State.blockReset_word : (s.blockReset).word = s.word := rfl
@[simp] theorem State.blockReset_rxq : (s.blockReset).rxq = s.rxq := rfl
@[simp] theorem State.blockReset_inq : (s.blockReset).inq = s.inq := rfl
@[simp] theorem State.blockReset_result : (s.blockReset).result = s.result := rfl
@[simp] theorem State.blockReset_diags : (s.blockReset).diags = [] := rfl
@[simp] theorem State.blockReset_draws : (s.blockReset).draws = s.draws + 1 := rfl

end

section
variable (s : State) (p : List Byte)

@[simp] theorem State.handleResponse_params : (s.handleResponse p).params = s.params := rfl
@[simp] theorem State.handleResponse_st : (s.handleResponse p).st = s.st := rfl
@[simp] theorem State.handleResponse_strm : (s.handleResponse p).strm = s.strm := rfl
@[simp] theorem State.handleResponse_cnt : (s.handleResponse p).cnt = s.cnt := rfl
@[simp] theorem State.handleResponse_buf : (s.handleResponse p).buf = s.buf := rfl
@[simp] theorem State.handleResponse_reg : (s.handleResponse p).reg = s.reg := rfl
@[simp] theorem State.handleResponse_ev : (s.handleResponse p).ev = s.ev := rfl
@[simp] theorem State.handleResponse_mode : (s.handleResponse p).mode = .received := rfl
@[simp] theorem State.handleResponse_word : (s.handleResponse p).word = bytesToWord s.params.recEndian (s.payloadByte p 0) (s.payloadByte p 1)
      (s.payloadByte p 2) (s.payloadByte p 3) := rfl
@[simp] theorem State.handleResponse_rxq : (s.handleResponse p).rxq = s.rxq := rfl
@[simp] theorem State.handleResponse_inq : (s.handleResponse p).inq = s.inq := rfl
@[simp] theorem State.handleResponse_result : (s.handleResponse p).result = s.result := rfl
@[simp] theorem State.handleResponse_diags : (s.handleResponse p).diags = s.diags := rfl
@[simp] theorem State.handleResponse_draws : (s.handleResponse p).draws = if p.length < 4 then s.draws + 1 else s.draws := rfl

end

section
variable (s : State) (bs : List Byte)

@[simp] theorem State.deliver_params : (s.deliver bs).params = s.params := rfl
@[simp] theorem State.deliver_st : (s.deliver bs).st = s.st := rfl
@[simp] theorem State.deliver_strm : (s.deliver bs).strm = s.strm := rfl
@[simp] theorem State.deliver_cnt : (s.deliver bs).cnt = s.cnt := rfl
@[simp] theorem State.deliver_buf : (s.deliver bs).buf = s.buf := rfl
@[simp] theorem State.deliver_reg : (s.deliver bs).reg = s.reg := rfl
@[simp] theorem State.deliver_ev : (s.deliver bs).ev = s.ev := rfl
@[simp] theorem State.deliver_mode : (s.deliver bs).mode = s.mode := rfl
@[simp] theorem State.deliver_word : (s.deliver bs).word = s.word := rfl
@[simp] theorem State.deliver_rxq : (s.deliver bs).rxq = s.rxq ++ bs := rfl
@[simp] theorem State.deliver_inq : (s.deliver bs).inq = s.inq := rfl
@[simp] theorem State.deliver_result : (s.deliver bs).result = s.result := rfl
@[simp] theorem State.deliver_diags : (s.deliver bs).diags = s.diags := rfl
@[simp] theorem State.deliver_draws : (s.deliver bs).draws = s.draws := rfl

end

section
variable (s : State)

@[simp] theorem State.wsStart_params : (s.wsStart).params = s.params := rfl
@[simp] theorem State.wsStart_st : (s.wsStart).st = .wf := rfl
@[simp] theorem State.wsStart_strm : (s.wsStart).strm = false := rfl
@[simp] theorem State.wsStart_cnt : (s.wsStart).cnt = 0 := rfl
@[simp] theorem State.wsStart_buf : (s.wsStart).buf = drawNibbles s.params.bufCap s.draws 0 := rfl
@[simp] theorem State.wsStart_reg : (s.wsStart).reg = s.reg := rfl
@[simp] theorem State.wsStart_ev : (s.wsStart).ev = s.ev := rfl
@[simp] theorem State.wsStart_mode : (s.wsStart).mode = s.mode := rfl
@[simp] theorem State.wsStart_word : (s.wsStart).word = s.word := rfl
@[simp] theorem State.wsStart_rxq : (s.wsStart).rxq = s.rxq := rfl
@[simp] theorem State.wsStart_inq : (s.wsStart).inq = s.inq := rfl
@[simp] theorem State.wsStart_result : (s.wsStart).result = s.result := rfl
@[simp] theorem State.wsStart_diags : (s.wsStart).diags = s.diags := rfl
@[simp] theorem State.wsStart_draws : (s.wsStart).draws = s.draws + 1 := rfl

end

section
variable (s : State)

@[simp] theorem State.wfStreamEnter_params : (s.wfStreamEnter).params = s.params := rfl
@[simp] theorem State.wfStreamEnter_st : (s.wfStreamEnter).st = s.st := rfl
@[simp] theorem State.wfStreamEnter_strm : (s.wfStreamEnter).strm = true := rfl
@[simp] theorem State.wfStreamEnter_cnt : (s.wfStreamEnter).cnt = 0 := rfl
@[simp] theorem State.wfStreamEnter_buf : (s.wfStreamEnter).buf = s.buf.set s.cnt 4 := rfl
@[simp] theorem State.wfStreamEnter_reg : (s.wfStreamEnter).reg = s.reg := rfl
@[simp] theorem State.wfStreamEnter_ev : (s.wfStreamEnter).ev = s.ev := rfl
@[simp] theorem State.wfStreamEnter_mode : (s.wfStreamEnter).mode = s.mode := rfl
@[simp] theorem State.wfStreamEnter_word : (s.wfStreamEnter).word = s.word := rfl
@[simp] theorem State.wfStreamEnter_rxq : (s.wfStreamEnter).rxq = s.rxq := rfl
@[simp] theorem State.wfStreamEnter_inq : (s.wfStreamEnter).inq = s.inq := rfl
@[simp] theorem State.wfStreamEnter_result : (s.wfStreamEnter).result = s.result := rfl
@[simp] theorem State.wfStreamEnter_diags : (s.wfStreamEnter).diags = s.diags := rfl
@[simp] theorem State.wfStreamEnter_draws : (s.wfStreamEnter).draws = s.draws := rfl

end

section
variable (s : State) (n : Nibble)

@[simp] theorem State.wfStreamByte_params : (s.wfStreamByte n).params = s.params := rfl
@[simp] theorem State.wfStreamByte_st : (s.wfStreamByte n).st = s.st := rfl
@[simp] theorem State.wfStreamByte_strm : (s.wfStreamByte n).strm = s.strm := rfl
@[simp] theorem State.wfStreamByte_cnt : (s.wfStreamByte n).cnt = 0 := rfl
@[simp] theorem State.wfStreamByte_buf : (s.wfStreamByte n).buf = s.buf.set s.cnt n := rfl
@[simp] theorem State.wfStreamByte_reg : (s.wfStreamByte n).reg = s.reg := rfl
@[simp] theorem State.wfStreamByte_ev : (s.wfStreamByte n).ev = s.ev ++ [.streamByte ((s.bufPush n).pairAt 0)] := rfl
@[simp] theorem State.wfStreamByte_mode : (s.wfStreamByte n).mode = s.mode := rfl
@[simp] theorem State.wfStreamByte_word : (s.wfStreamByte n).word = s.word := rfl
@[simp] theorem State.wfStreamByte_rxq : (s.wfStreamByte n).rxq = s.rxq := rfl
@[simp] theorem State.wfStreamByte_inq : (s.wfStreamByte n).inq = s.inq := rfl
@[simp] theorem State.wfStreamByte_result : (s.wfStreamByte n).result = s.result := rfl
@[simp] theorem State.wfStreamByte_diags : (s.wfStreamByte n).diags = s.diags := rfl
@[simp] theorem State.wfStreamByte_draws : (s.wfStreamByte n).draws = s.draws := rfl

end

end Sys2Proof.Machine
end

