-- ==== Sys2Proof/Laws/Ops.lean ====
section
/-!
SUPPORT. What each shared operation over the state can do, once each: buffer and registry reads after writes, the
size of the buffer, routing, frame processing, the receive operations, and what one step can be.
-/

namespace Sys2Proof.Machine

/-! ### The buffer -/

theorem State.bufRead_bufPush_self (s : State) (n : Nibble) (h : s.cnt < s.buf.length) :
    (s.bufPush n).bufRead s.cnt = n := by
  simp [State.bufRead, h]

theorem State.bufRead_bufPush_of_ne (s : State) (n : Nibble) {i : Nat} (h : i ≠ s.cnt) :
    (s.bufPush n).bufRead i = s.bufRead i := by
  simp [State.bufRead, h.symm]

/-- A read depends on the buffer alone. -/
theorem State.bufRead_congr {s t : State} (h : s.buf = t.buf) (i : Nat) : s.bufRead i = t.bufRead i := by
  simp [State.bufRead, h]

theorem State.pairAt_congr {s t : State} (h : s.buf = t.buf) (i : Nat) : s.pairAt i = t.pairAt i := by
  simp [State.pairAt, State.bufRead_congr h]

/-- A pair is its two nibbles, the earlier one high. -/
theorem State.pairAt_eq (s : State) (i : Nat) : s.pairAt i = s.bufRead i ++ s.bufRead (i + 1) :=
  nibJoin_eq_append _ _

@[simp] theorem State.emit_bufRead (s : State) (e : Event) (i : Nat) :
    (s.emit e).bufRead i = s.bufRead i := rfl

@[simp] theorem State.emit_pairAt (s : State) (e : Event) (i : Nat) :
    (s.emit e).pairAt i = s.pairAt i := rfl

@[simp] theorem State.emit_regRead (s : State) (e : Event) (id : Byte) :
    (s.emit e).regRead id = s.regRead id := rfl

/-- Every operation that writes the buffer leaves it `BUF_CAP` entries long. -/
theorem State.bufPush_storage {s : State} (n : Nibble) (h : s.StorageInv) : (s.bufPush n).StorageInv := by
  simpa [State.StorageInv] using h

theorem State.wsStart_storage {s : State} (h : s.StorageInv) : s.wsStart.StorageInv := by
  simpa [State.StorageInv] using h.1

theorem State.blockReset_storage {s : State} (h : s.StorageInv) : s.blockReset.StorageInv := by
  simpa [State.StorageInv] using h.1

theorem State.reset_storage : State.reset.StorageInv := by
  simp [State.StorageInv, State.reset, Config.params, Params.legal]

/-! ### The registry -/

@[simp] theorem State.regRead_regWrite_self (s : State) (id : Byte) (e : RegEntry) :
    (s.regWrite id e).regRead id = e := by
  simp [State.regRead]

theorem State.regRead_regWrite_of_ne (s : State) {id j : Byte} (e : RegEntry) (h : j ≠ id) :
    (s.regWrite id e).regRead j = s.regRead j := by
  have hne : id.toNat ≠ j.toNat := fun he => h (BitVec.eq_of_toNat_eq he.symm)
  simp [State.regRead, hne]

theorem State.regRead_congr {s t : State} (h : s.reg = t.reg) (id : Byte) :
    s.regRead id = t.regRead id := by
  simp [State.regRead, h]

@[simp] theorem State.blockReset_valid (s : State) (id : Byte) :
    (s.blockReset.regRead id).valid = false := by
  simp [State.regRead, emptyRegistry]

@[simp] theorem State.reset_valid (id : Byte) : (State.reset.regRead id).valid = false := by
  simp [State.regRead, State.reset]

/-! ### The response handler and the mux -/

/-- The consumer of an event changes the host's fields only. -/
theorem State.consume_eq (s : State) (id : Byte) (p : List Byte) :
    s.consume id p =
      { s with word := (s.consume id p).word, mode := (s.consume id p).mode, draws := (s.consume id p).draws } := by
  unfold State.consume
  split <;> rfl

theorem State.consume_of_ne {id : Byte} (s : State) (p : List Byte) (h : id ≠ Config.responseId) :
    s.consume id p = s := by
  simp [State.consume, h]

/-- DISPATCH emits and hands over, or drops with one of two labels. -/
theorem State.route_cases (s : State) (id : Byte) (len : Nat) (p : List Byte) :
    (s.regRead id = ⟨true, len⟩ ∧ s.route id len p = (s.emit (.dispatch id p)).consume id p) ∨
    ((s.regRead id).valid = false ∧ s.route id len p = s.drop (.unknownId id)) ∨
    ((s.regRead id).valid = true ∧ (s.regRead id).size ≠ len ∧
      s.route id len p = s.drop (.sizeMismatch id len (s.regRead id).size)) := by
  unfold State.route
  rcases hr : s.regRead id with ⟨v, z⟩
  cases v
  · simp
  · by_cases hz : z = len <;> simp [hz]

theorem State.route_registered {s : State} {id : Byte} {len : Nat} (p : List Byte)
    (h : s.regRead id = ⟨true, len⟩) : s.route id len p = (s.emit (.dispatch id p)).consume id p := by
  simp [State.route, h]

theorem State.route_unregistered {s : State} {id : Byte} (len : Nat) (p : List Byte)
    (h : (s.regRead id).valid = false) : s.route id len p = s.drop (.unknownId id) := by
  simp [State.route, h]

theorem State.route_mismatch {s : State} {id : Byte} {len : Nat} (p : List Byte)
    (hv : (s.regRead id).valid = true) (hz : (s.regRead id).size ≠ len) :
    s.route id len p = s.drop (.sizeMismatch id len (s.regRead id).size) := by
  simp [State.route, hv, hz]

theorem State.processFrame_dropped {s : State} {n : Nat} (h : n < 8 ∨ n % 2 = 1) :
    s.processFrame n = s.drop (.length n) := if_pos h

/-- PROCESS_FRAME drops a bad length and routes any other frame. -/
theorem State.processFrame_cases (s : State) (n : Nat) :
    ((n < 8 ∨ n % 2 = 1) ∧ s.processFrame n = s.drop (.length n)) ∨
    (8 ≤ n ∧ n % 2 = 0 ∧ s.processFrame n =
      s.route (s.pairAt 0) ((n - 6) / 2) ((List.range ((n - 6) / 2)).map fun k => s.pairAt (2 + 2 * k))) := by
  unfold State.processFrame
  by_cases h : n < Config.minBody ∨ n % 2 = 1
  · exact .inl ⟨h, if_pos h⟩
  · refine .inr ⟨?_, ?_, if_neg h⟩ <;> simp only [Config.minBody] at h <;> omega

theorem State.wfStop_streaming {s : State} (h : s.strm = true) :
    s.wfStop = { s.emit .frameEnd with st := .ws, strm := false } := by
  simp [State.wfStop, h]

theorem State.wfStop_buffered {s : State} (h : s.strm = false) :
    s.wfStop = { (s.emit .frameEnd).processFrame s.cnt with st := .ws, strm := false } := by
  simp [State.wfStop, h]

/-! ### The selection -/

theorem State.view_eq (s : State) :
    s.view = ⟨s.st, s.strm, s.cnt, s.bufRead 0, s.params.bufCap⟩ := rfl

/-- A guarded operation runs exactly where it is admitted. -/
theorem whenAdmitted_eq_next {i : Instr} {s t : State} (h : i.admitted s.view = true) :
    whenAdmitted i s t = .next t := by
  simp [whenAdmitted, h]

theorem whenAdmitted_next {i : Instr} {s t u : State} (h : whenAdmitted i s t = .next u) :
    i.admitted s.view = true ∧ u = t := by
  unfold whenAdmitted at h
  split at h
  · injection h with h; exact ⟨‹_›, h.symm⟩
  · cases h

/-- The receive arms of `exec` are the effects of the receive operations under their conditions. -/
theorem exec_toInstr (op : RxOp) (s : State) : exec op.toInstr s = whenAdmitted op.toInstr s (s.receive op) := by
  cases op <;> rfl

/-- Each receive operation's effect (R131 to R140), by what BYTE_IN selected. -/
theorem State.byteIn_eq (s : State) (b : Byte) : s.byteIn b = s.receive (selectRx s.view b) := rfl

/-! ### One step -/

theorem step_nil {s : State} (h : s.inq = []) : step s = .next s := by
  simp [step, State.fetch, h]

theorem step_peer {s : State} {bs : List Byte} {q : List Input} (h : s.inq = .peer bs :: q) :
    step s = .next (({ s with inq := q } : State).deliver bs) := by
  simp [step, State.fetch, h]

theorem step_txn {s : State} {t : Txn} {q : List Input} (h : s.inq = .txn t :: q) :
    step s = runTxn t { s with inq := q } := by
  simp [step, State.fetch, h]

@[simp] theorem runSteps_zero (s : State) : runSteps 0 s = .next s := rfl

/-- A run's first step. -/
theorem runSteps_succ {n : Nat} {s t : State} (h : step s = .next t) :
    runSteps (n + 1) s = runSteps n t := by
  simp [runSteps, h]

/-- Taking an input does not change what the receive port's selection reads. -/
@[simp] theorem State.view_inq (s : State) (q : List Input) : ({ s with inq := q } : State).view = s.view := rfl

/-- What a step that completes can be: waiting, the peer's bytes, or the meaning of a decoded operation. -/
theorem step_cases {s u : State} (h : step s = .next u) :
    (s.inq = [] ∧ u = s) ∨
    (∃ bs q, s.inq = .peer bs :: q ∧ u = ({ s with inq := q } : State).deliver bs) ∨
    (∃ t q, s.inq = .txn t :: q ∧ exec (decode s.view t) { s with inq := q } = .next u) := by
  rcases hq : s.inq with _ | ⟨t | bs, q⟩
  · rw [step_nil hq] at h
    injection h with h
    exact .inl ⟨rfl, h.symm⟩
  · rw [step_txn hq, runTxn, State.view_inq] at h
    exact .inr (.inr ⟨t, q, rfl, h⟩)
  · rw [step_peer hq] at h
    injection h with h
    exact .inr (.inl ⟨bs, q, rfl, h.symm⟩)

/-- What the host's presenting of a table pattern puts at the head of the queue. -/
theorem State.withFetchWord_of_read {nbits w : Nat} {t : Txn} (h : readTxn (tableRaw nbits w) = .ok t) (s : State) :
    s.withFetchWord nbits w = { s with inq := .txn t :: s.inq } := by
  simp [State.withFetchWord, h]

end Sys2Proof.Machine
end

