-- ==== Sys2Proof/Laws/PerInstr.lean ====
section
/-!
SUPPORT. The per-instruction families of LAWS.json: one lemma per constructor of `Instr`.

`OnlyReceiveReadsState`: the transaction of an instruction means the same operation in every state of the parser,
unless it is a wire byte on the receive port (R70, R83); the internal operations have no transaction (R141, R161,
R204).
-/

namespace Sys2Proof.Laws.OnlyReceiveReadsState

open Sys2Proof Sys2Proof.Machine

/-- Outside the receive port, decoding an instruction's transaction does not read the parser's state. -/
def Statement (i : Instr) : Prop :=
  ∀ t : Txn, encode i = some t → (∀ b : Byte, t ≠ .rxByte b) → ∀ v w : ParserView, decode v t = decode w t

/-- An instruction of the receive port. -/
theorem of_rxByte {i : Instr} {b : Byte} (h : encode i = some (.rxByte b)) : Statement i := by
  intro t ht hb
  rw [h, Option.some.injEq] at ht
  exact absurd ht.symm (hb b)

/-- An instruction without a transaction. -/
theorem of_none {i : Instr} (h : encode i = none) : Statement i := by
  intro t ht
  simp [h] at ht

/-- An instruction whose transaction decodes to one operation in every state. -/
theorem of_const {i : Instr} {t : Txn} (h : encode i = some t) (hd : ∀ v w, decode v t = decode w t) :
    Statement i := by
  intro u hu _
  rw [h, Option.some.injEq] at hu
  exact hu ▸ hd

theorem nibSplit (b : Byte) : Statement (.nibSplit b) := of_const rfl fun _ _ => rfl

theorem nibJoin (h l : Nibble) : Statement (.nibJoin h l) := of_const rfl fun _ _ => rfl

theorem serFrame (id : Byte) (r : List Byte) : Statement (.serFrame id r) := of_const rfl fun _ _ => rfl

theorem classifyStart : Statement .classifyStart := of_const rfl fun _ _ => rfl

theorem classifyStop : Statement .classifyStop := of_const rfl fun _ _ => rfl

theorem classifyNibble (n : Nibble) : Statement (.classifyNibble n) := of_const rfl fun _ _ => rfl

theorem classifyHigh (b : Byte) : Statement (.classifyHigh b) := of_const rfl fun _ _ => rfl

theorem dupQual (b : Byte) (cnt : Nat) : Statement (.dupQual b cnt) := of_const rfl fun _ _ => rfl

theorem wsStart : Statement .wsStart := of_rxByte rfl

theorem wsIgnore (b : Byte) : Statement (.wsIgnore b) := of_rxByte rfl

theorem wfStop : Statement .wfStop := of_rxByte rfl

theorem wfDupStart : Statement .wfDupStart := of_rxByte rfl

theorem wfFramingAbort (b : Byte) : Statement (.wfFramingAbort b) := of_rxByte rfl

theorem wfNibAppend (n : Nibble) : Statement (.wfNibAppend n) := of_rxByte rfl

theorem wfIdPair (n : Nibble) : Statement (.wfIdPair n) := of_rxByte rfl

theorem wfStreamEnter : Statement .wfStreamEnter := of_rxByte rfl

theorem wfStreamByte (n : Nibble) : Statement (.wfStreamByte n) := of_rxByte rfl

theorem wfOverflowAbort (n : Nibble) : Statement (.wfOverflowAbort n) := of_rxByte rfl

theorem processFrame (n : Nat) : Statement (.processFrame n) := of_none rfl

theorem regWrite (id : Byte) (size : Nat) : Statement (.regWrite id size) := of_const rfl fun _ _ => rfl

theorem dispatch (id : Byte) (len : Nat) (payload : List Byte) : Statement (.dispatch id len payload) :=
  of_none rfl

theorem parity32 (w : Word32) : Statement (.parity32 w) := of_const rfl fun _ _ => rfl

theorem parForce (w : Word32) : Statement (.parForce w) := of_const rfl fun _ _ => rfl

theorem msgPack (type : BitVec 3) (item hb lb : Byte) : Statement (.msgPack type item hb lb) :=
  of_const rfl fun _ _ => rfl

theorem msgUnpack (w : Word32) : Statement (.msgUnpack w) := of_const rfl fun _ _ => rfl

theorem viewU16 (hb lb : Byte) : Statement (.viewU16 hb lb) := of_const rfl fun _ _ => rfl

theorem viewF88 (hb lb : Byte) : Statement (.viewF88 hb lb) := of_const rfl fun _ _ => rfl

theorem wordToBytes (w : Word32) : Statement (.wordToBytes w) := of_const rfl fun _ _ => rfl

theorem bytesToWord (r0 r1 r2 r3 : Byte) : Statement (.bytesToWord r0 r1 r2 r3) := of_const rfl fun _ _ => rfl

theorem reset : Statement .reset := of_const rfl fun _ _ => rfl

theorem send (type : BitVec 3) (item hb lb : Byte) : Statement (.send type item hb lb) :=
  of_const rfl fun _ _ => rfl

theorem poll : Statement .poll := of_const rfl fun _ _ => rfl

theorem respHandler (p : List Byte) : Statement (.respHandler p) := of_none rfl

theorem getMessage : Statement .getMessage := of_const rfl fun _ _ => rfl

theorem stopSession : Statement .stopSession := of_const rfl fun _ _ => rfl

end Sys2Proof.Laws.OnlyReceiveReadsState
end

