-- ==== Sys2Proof/Laws/Records.lean ====
section
/-!
SUPPORT. What reading and writing the fields of a record say, once each: the bytes a field takes of a record, the
two byte orders of a two-byte number, the record of a layout.
-/

namespace Sys2Proof.Machine

/-- The bytes a field takes of a record that has them at the field's offset. -/
theorem RecField.take_drop {f : RecField} {pre bs : List Byte} (post : List Byte)
    (hpre : pre.length = f.offset) (hbs : bs.length = f.width) :
    ((pre ++ bs ++ post).drop f.offset).take f.width = bs := by
  simp [← hpre, ← hbs]

/-- What an `ordered` field reads: the number of its own bytes, whatever stands around them. -/
theorem RecField.read_ordered {f : RecField} {pre bs : List Byte} (e : Endian) (post : List Byte)
    (hk : f.kind = .ordered) (hpre : pre.length = f.offset) (hbs : bs.length = f.width) :
    f.read e (pre ++ bs ++ post) = .number (fieldNumber e bs) := by
  simp only [RecField.read, hk, f.take_drop post hpre hbs]

/-- What a `raw` field reads: its own bytes, whatever stands around them. -/
theorem RecField.read_raw {f : RecField} {pre bs : List Byte} (e : Endian) (post : List Byte)
    (hk : f.kind = .raw) (hpre : pre.length = f.offset) (hbs : bs.length = f.width) :
    f.read e (pre ++ bs ++ post) = .bytes bs := by
  simp only [RecField.read, hk, f.take_drop post hpre hbs]

/-- `LE` has the least significant byte of a 16-bit number first. -/
@[simp] theorem fieldNumber_le_two (a b : Byte) : fieldNumber .le [a, b] = a.toNat + 256 * b.toNat := by
  simp [fieldNumber, recordOrder, ofLittleEndian]

/-- `BE` has the most significant byte of a 16-bit number first. -/
@[simp] theorem fieldNumber_be_two (a b : Byte) : fieldNumber .be [a, b] = 256 * a.toNat + b.toNat := by
  simp [fieldNumber, recordOrder, ofLittleEndian, Nat.add_comm]

@[simp] theorem fieldBytes_le_two (n : Nat) :
    fieldBytes .le 2 n = [BitVec.ofNat 8 n, BitVec.ofNat 8 (n / 256)] := rfl

@[simp] theorem fieldBytes_be_two (n : Nat) :
    fieldBytes .be 2 n = [BitVec.ofNat 8 (n / 256), BitVec.ofNat 8 n] := rfl

/-- A value that fits is written in as many bytes as the field has. -/
theorem RecField.length_write {f : RecField} {v : FieldValue} (e : Endian) (h : f.fits v = true) :
    (f.write e v).length = f.width := by
  cases hk : f.kind <;> cases v <;> simp_all [RecField.fits, RecField.write]

/-- The record of a layout has the sum of the fields' widths. -/
theorem length_writeFields (e : Endian) {fs : List RecField} {vs : List FieldValue}
    (h : List.Forall₂ (fun f v => f.fits v = true) fs vs) :
    (writeFields e fs vs).length = (fs.map RecField.width).sum := by
  induction h with
  | nil => rfl
  | cons hf _ ih => simp [writeFields, RecField.length_write e hf, ih]

@[simp] theorem length_readFields (e : Endian) (fs : List RecField) (r : List Byte) :
    (readFields e fs r).length = fs.length := by
  simp [readFields]

end Sys2Proof.Machine
end

