-- ==== Sys2Proof/Tests/Slice0.lean ====
section
/-!
SUPPORT. Tests: what WellFormed refuses; the decoding of every operation from a transaction written out from the
spec; one step of each operation on a small state, against the vectors of spec/95_test_vectors.md (named `V…`) or
the rule named; and, for every statement with hypotheses, a state and operands that meet them (`witness_…`).
-/

namespace Sys2Proof.Tests

open Sys2Proof Sys2Proof.Machine

/-- A block of capacity `cap` whose buffer starts with `nibs`, all of them pending, with identifier 1 registered
with size 1, 4 with size 4 and 5 with size 5. -/
def small (cap : Nat) (st : ParserState) (strm : Bool) (nibs : List Nibble) : State :=
  { State.reset with
    params := ⟨cap, .le⟩
    st := st
    strm := strm
    cnt := nibs.length
    buf := nibs ++ List.replicate (cap - nibs.length) 0
    reg := (((Vector.replicate 256 ⟨false, 0⟩).set 1 ⟨true, 1⟩).set 4 ⟨true, 4⟩).set 5 ⟨true, 5⟩ }

/-- The small block in `WS`. -/
def idle : State := small 8 .ws false []

/-- What is seen of the next state of `i`, if it has one. -/
def after (i : Instr) (s : State) (see : State → α) : Option α :=
  match exec i s with
  | .next t => some (see t)
  | _ => none

/-- The value `i` returns. -/
def answerOf (i : Instr) (s : State) : Option Result := after i s State.result

/-- The parser's fields, the trace and the ghost labels. -/
def seen (s : State) : ParserState × Bool × Nat × List Event × List Diag :=
  (s.st, s.strm, s.cnt, s.ev, s.diags)

/-- Whether a step or an operation completes. -/
def completes : StepOutcome → Bool
  | .next _ => true
  | _ => false

/-- A body of 8 nibbles: identifier 1, payload `FF` (V3.12). -/
def frame1 : List Nibble := [0, 1, 0xF, 0xF, 0, 0, 0, 0]

/-- V1.7's body: identifier 5, payload `05 00 00 00 00`. -/
def frame5 : List Nibble := [0, 5, 0, 5, 0, 0, 0, 0, 0, 0, 0, 0, 0, 0, 0, 0]

/-! ### WellFormed: one ill-formed term for each check -/

theorem test_wf_classifyHigh : (Instr.classifyHigh 0xA0).wellFormed = false := by decide

theorem test_wf_wsIgnore : (Instr.wsIgnore 0xA0).wellFormed = false := by decide

theorem test_wf_wfFramingAbort : (Instr.wfFramingAbort 0x60).wellFormed = false := by decide

theorem test_wf_dispatch : (Instr.dispatch 4 3 [1, 2]).wellFormed = false := by decide

theorem test_wf_respHandler : (Instr.respHandler [1, 2, 3, 4]).wellFormed = false := by decide

/-! ### Decoding -/

/-- The receive port in `WS` (R131, R132). -/
theorem test_decode_ws :
    decodeRaw ⟨.ws, false, 0, 0, 8⟩ ⟨.rxByte, [0b10100000]⟩ = .ok .wsStart ∧
    decodeRaw ⟨.ws, false, 0, 0, 8⟩ ⟨.rxByte, [0b01100000]⟩ = .ok (.wsIgnore 0x60) := by decide

/-- The receive port in `WF`: stop, duplicate start, both framing aborts (R133 to R135). -/
theorem test_decode_wf_control :
    decodeRaw ⟨.wf, false, 1, 0, 8⟩ ⟨.rxByte, [0b01100000]⟩ = .ok .wfStop ∧
    decodeRaw ⟨.wf, true, 0, 0, 8⟩ ⟨.rxByte, [0b10100000]⟩ = .ok .wfDupStart ∧
    decodeRaw ⟨.wf, false, 1, 0, 8⟩ ⟨.rxByte, [0b10100000]⟩ = .ok (.wfFramingAbort 0xA0) ∧
    decodeRaw ⟨.wf, false, 0, 0, 8⟩ ⟨.rxByte, [0b00010000]⟩ = .ok (.wfFramingAbort 0x10) := by decide

/-- The receive port in `WF`: the nibble bytes (R136 to R140). -/
theorem test_decode_wf_nibble :
    decodeRaw ⟨.wf, false, 7, 0, 8⟩ ⟨.rxByte, [0b00001111]⟩ = .ok (.wfNibAppend 15) ∧
    decodeRaw ⟨.wf, false, 1, 5, 8⟩ ⟨.rxByte, [0b00000100]⟩ = .ok (.wfIdPair 4) ∧
    decodeRaw ⟨.wf, false, 1, 6, 8⟩ ⟨.rxByte, [0b00000100]⟩ = .ok .wfStreamEnter ∧
    decodeRaw ⟨.wf, true, 1, 6, 8⟩ ⟨.rxByte, [0b00000100]⟩ = .ok (.wfStreamByte 4) ∧
    decodeRaw ⟨.wf, false, 8, 0, 8⟩ ⟨.rxByte, [0b00000000]⟩ = .ok (.wfOverflowAbort 0) := by decide

/-- The command ports and U1 (R70, R100 to R102, R160, R250). -/
theorem test_decode_commands :
    decodeRaw idle.view ⟨.txCmd, [4, 0x12, 0x34]⟩ = .ok (.serFrame 4 [0x12, 0x34]) ∧
    decodeRaw idle.view ⟨.regCfg, [5, 300]⟩ = .ok (.regWrite 5 300) ∧
    decodeRaw idle.view ⟨.rst, []⟩ = .ok .reset ∧
    decodeRaw idle.view ⟨.nibSplit, [0xA7]⟩ = .ok (.nibSplit 0xA7) ∧
    decodeRaw idle.view ⟨.nibJoin, [6, 4]⟩ = .ok (.nibJoin 6 4) := by decide

/-- U2 (R72, R120, R121). -/
theorem test_decode_u2 :
    decodeRaw idle.view ⟨.classify, [0b10100000]⟩ = .ok .classifyStart ∧
    decodeRaw idle.view ⟨.classify, [0b01100000]⟩ = .ok .classifyStop ∧
    decodeRaw idle.view ⟨.classify, [0b00000110]⟩ = .ok (.classifyNibble 6) ∧
    decodeRaw idle.view ⟨.classify, [0b01100001]⟩ = .ok (.classifyHigh 0x61) ∧
    decodeRaw idle.view ⟨.dupQual, [0xA0, 1]⟩ = .ok (.dupQual 0xA0 1) := by decide

/-- U5 (R180 to R188). -/
theorem test_decode_u5 :
    decodeRaw idle.view ⟨.parity32, [3]⟩ = .ok (.parity32 3) ∧
    decodeRaw idle.view ⟨.parForce, [0x7FFFFFFF]⟩ = .ok (.parForce 0x7FFFFFFF) ∧
    decodeRaw idle.view ⟨.msgPack, [3, 0x19, 0x28, 0]⟩ = .ok (.msgPack 3 0x19 0x28 0) ∧
    decodeRaw idle.view ⟨.msgUnpack, [5]⟩ = .ok (.msgUnpack 5) ∧
    decodeRaw idle.view ⟨.viewU16, [0x14, 0x80]⟩ = .ok (.viewU16 0x14 0x80) ∧
    decodeRaw idle.view ⟨.viewF88, [0x14, 0x80]⟩ = .ok (.viewF88 0x14 0x80) ∧
    decodeRaw idle.view ⟨.wordToBytes, [0xC0000000]⟩ = .ok (.wordToBytes 0xC0000000) ∧
    decodeRaw idle.view ⟨.bytesToWord, [5, 0, 1, 2]⟩ = .ok (.bytesToWord 5 0 1 2) := by decide

/-- The host's calls (R202 to R206). -/
theorem test_decode_host :
    decodeRaw idle.view ⟨.send, [1, 25, 0, 2]⟩ = .ok (.send 1 25 0 2) ∧
    decodeRaw idle.view ⟨.poll, []⟩ = .ok .poll ∧
    decodeRaw idle.view ⟨.getMessage, []⟩ = .ok .getMessage ∧
    decodeRaw idle.view ⟨.stopSession, []⟩ = .ok .stopSession := by decide

/-- The internal operations arrive on no port (R141, R161, R204). -/
theorem test_encode_internal :
    encode (.processFrame 8) = none ∧ encode (.dispatch 1 1 [0]) = none ∧
    encode (.respHandler [0, 0, 0, 0, 0]) = none := by decide

/-- NIB_JOIN reads two wire bytes and uses the low 4 bits of each (R101). -/
theorem test_read_nibJoin : readTxn ⟨.nibJoin, [0xA6, 0x14]⟩ = .ok (.nibJoin 6 4) := by decide

/-- What is no transaction of its port is rejected by name: "wider values cannot be presented" (R182). -/
theorem test_decode_rejects :
    decodeRaw idle.view ⟨.msgPack, [8, 0, 0, 0]⟩ = .error (.operandTooWide .msgPack 3 8) ∧
    decodeRaw idle.view ⟨.rxByte, [256]⟩ = .error (.operandTooWide .rxByte 8 256) ∧
    decodeRaw idle.view ⟨.poll, [1]⟩ = .error (.wrongArity .poll 1) := by decide

/-- The table's bit patterns after reset (log 16): WS_START, WS_IGNORE, MSG_PACK and MSG_UNPACK. -/
theorem test_table_words :
    decodeTableWord 8 0xA0 = some .wsStart ∧ decodeTableWord 8 0x04 = some (.wsIgnore 4) ∧
    decodeTableWord 32 0xF0FFFFFF = some (.msgPack 7 0xFF 0xFF 0xFF) ∧
    decodeTableWord 32 0x8F190203 = some (.msgUnpack 0x8F190203) := by decide

/-- A presented pattern is run by the next step (R131). -/
theorem test_withFetchWord_runs :
    (match step (State.reset.withFetchWord 8 0xA0) with
      | .next t => decide (t.st = .wf ∧ t.inq = [])
      | _ => false) = true := by decide

/-! ### U1 -/

/-- V1.1. -/
theorem test_nibSplit : answerOf (.nibSplit 0xA7) idle = some (.bytePair 0x0A 0x07) := by decide

/-- V1.2. -/
theorem test_nibJoin : answerOf (.nibJoin 6 4) idle = some (.byte 100) := by decide

/-- V1.3. -/
theorem test_serFrame : after (.serFrame 4 [0x12, 0x34, 0x56, 0x78]) idle State.ev =
    some ([0xA0, 0, 4, 1, 2, 3, 4, 5, 6, 7, 8, 0, 0, 0, 0, 0x60].map Event.txByte) := by decide

/-- V1.9: sentinel values as data. -/
theorem test_serFrame_sentinel_data : after (.serFrame 0xA0 [0x60]) idle State.ev =
    some ([0xA0, 0x0A, 0, 6, 0, 0, 0, 0, 0, 0x60].map Event.txByte) := by decide

/-! ### U2 -/

/-- V2.1 to V2.3. -/
theorem test_classify :
    answerOf .classifyStart idle = some (.cls .start) ∧ answerOf .classifyStop idle = some (.cls .stop) ∧
    answerOf (.classifyNibble 15) idle = some (.cls (.nibble 15)) ∧
    answerOf (.classifyHigh 0xA1) idle = some (.cls .high) := by decide

/-- V2.4. -/
theorem test_dupQual :
    answerOf (.dupQual 0xA0 0) idle = some (.bit true) ∧ answerOf (.dupQual 0xA0 1) idle = some (.bit false) ∧
    answerOf (.dupQual 0x11 0) idle = some (.bit false) := by decide

/-! ### U3 -/

/-- R131, from a state with an old counter. -/
theorem test_wsStart : after .wsStart (small 8 .ws false [1, 2, 3]) seen = some (.wf, false, 0, [], []) := by
  decide

/-- R132: the stop byte in `WS` gives no event (V3.24). -/
theorem test_wsIgnore : after (.wsIgnore 0x60) idle seen = some (.ws, false, 0, [], []) := by decide

/-- V3.12: a full buffer closed by the stop byte is dispatched. -/
theorem test_wfStop_dispatches : after .wfStop (small 8 .wf false frame1) seen =
    some (.ws, false, 8, [.frameEnd, .dispatch 1 [0xFF]], []) := by decide

/-- V3.21: a streaming frame's stop with a nibble pending. -/
theorem test_wfStop_streaming : after .wfStop (small 8 .wf true [3]) seen =
    some (.ws, false, 1, [.frameEnd], []) := by decide

/-- R134. -/
theorem test_wfDupStart : after .wfDupStart (small 8 .wf true []) seen = some (.wf, true, 0, [], []) := by
  decide

/-- V3.20: the start byte with a nibble pending. -/
theorem test_wfFramingAbort : after (.wfFramingAbort 0xA0) (small 8 .wf true [1]) seen =
    some (.ws, false, 1, [], [.framing 0xA0]) := by decide

/-- R136. -/
theorem test_wfNibAppend : after (.wfNibAppend 9) (small 8 .wf false [0, 4]) (fun t => (t.cnt, t.buf)) =
    some (3, [0, 4, 9, 0, 0, 0, 0, 0]) := by decide

/-- R137. -/
theorem test_wfIdPair : after (.wfIdPair 4) (small 8 .wf false [0]) (fun t => (t.cnt, t.buf.take 2)) =
    some (2, [0, 4]) := by decide

/-- R138. -/
theorem test_wfStreamEnter : after .wfStreamEnter (small 8 .wf false [6]) seen =
    some (.wf, true, 0, [], []) := by decide

/-- V3.22: the pair `60` is data. -/
theorem test_wfStreamByte : after (.wfStreamByte 0) (small 8 .wf true [6]) seen =
    some (.wf, true, 0, [.streamByte 0x60], []) := by decide

/-- V3.11. -/
theorem test_wfOverflowAbort : after (.wfOverflowAbort 1) (small 8 .wf false (List.replicate 8 1)) seen =
    some (.ws, false, 8, [], [.overflow 8]) := by decide

/-- V3.5's length 9: dropped without an event. -/
theorem test_processFrame_odd : after (.processFrame 9) (small 16 .wf false (List.replicate 9 0)) seen =
    some (.wf, false, 9, [], [.length 9]) := by decide

/-- R142, R143: the payload between the identifier and the trailer. -/
theorem test_processFrame : after (.processFrame 8) (small 8 .wf false frame1) seen =
    some (.wf, false, 8, [.dispatch 1 [0xFF]], []) := by decide

/-- Log 12: no effect is given to an operation outside its condition. -/
theorem test_not_selected : completes (exec .wfStop idle) = false := by decide

/-! ### U4 -/

/-- The registry vectors of R160: re-registration overwrites. -/
theorem test_regWrite : after (.regWrite 5 7) idle (fun t => (t.regRead 5, t.regRead 4)) =
    some (⟨true, 7⟩, ⟨true, 4⟩) := by decide

/-- V3.7, V3.9: an unknown identifier and a size mismatch are dropped. -/
theorem test_dispatch_drops :
    after (.dispatch 7 1 [0x12]) idle (fun t => (t.ev, t.diags)) = some ([], [.unknownId 7]) ∧
    after (.dispatch 1 2 [1, 2]) idle (fun t => (t.ev, t.diags)) = some ([], [.sizeMismatch 1 2 1]) := by
  decide

/-- V3.29 with R204: the event's consumer has run. -/
theorem test_dispatch_response : after (.dispatch 5 5 [5, 0, 0, 0, 0]) idle (fun t => (t.ev, t.mode, t.word)) =
    some ([.dispatch 5 [5, 0, 0, 0, 0]], .received, 5) := by decide

/-! ### U5 -/

/-- V5.2. -/
theorem test_parity32 :
    answerOf (.parity32 0xFFFFFFFF) idle = some (.bit false) ∧
    answerOf (.parity32 0x80000000) idle = some (.bit true) := by decide

/-- V5.9. -/
theorem test_parForce :
    answerOf (.parForce 0x7FFFFFFF) idle = some (.word 0xFFFFFFFF) ∧
    answerOf (.parForce 0x80000000) idle = some (.word 0x80000000) := by decide

/-- V5.6, V5.7. -/
theorem test_msgPack :
    answerOf (.msgPack 3 0x19 0x28 0) idle = some (.word 0xB0192800) ∧
    answerOf (.msgPack 7 0xFF 0xFF 0xFF) idle = some (.word 0xF0FFFFFF) := by decide

/-- V5.11. -/
theorem test_msgUnpack : answerOf (.msgUnpack 0x8F190203) idle = some (.msg ⟨0, 0x19, 2, 3⟩) := by
  decide

/-- V5.13. -/
theorem test_viewU16 : answerOf (.viewU16 0x14 0x80) idle = some (.u16 5248) := by decide

/-- V5.14: 20.5 and -1/256. -/
theorem test_viewF88 :
    answerOf (.viewF88 0x14 0x80) idle = some (.fixed (41 / 2)) ∧
    answerOf (.viewF88 0xFF 0xFF) idle = some (.fixed (-1 / 256)) := by decide +kernel

/-- V5.15, both byte orders. -/
theorem test_wordToBytes :
    answerOf (.wordToBytes 0xC0000000) idle = some (.bytes [0, 0, 0, 0xC0]) ∧
    answerOf (.wordToBytes 0xC0000000) { idle with params := ⟨8, .be⟩ } = some (.bytes [0xC0, 0, 0, 0]) := by
  decide

/-- V5.16, both byte orders. -/
theorem test_bytesToWord :
    answerOf (.bytesToWord 5 0 0 0) idle = some (.word 5) ∧
    answerOf (.bytesToWord 5 0 0 0) { idle with params := ⟨8, .be⟩ } = some (.word 0x05000000) := by
  decide

/-! ### Reset and the host -/

/-- R250: a frame in progress is abandoned and the registry emptied. -/
theorem test_reset : after .reset (small 8 .wf true [1]) (fun t => (t.st, t.strm, t.cnt, (t.regRead 5).valid)) =
    some (.ws, false, 0, false) := by decide +kernel

/-- V6.2. -/
theorem test_send : after (.send 4 0 0 0) idle (fun t => (t.ev, t.mode)) =
    some ([0xA0, 0, 4, 0, 0, 0, 0, 0, 0, 0x0C, 0, 0, 0, 0, 0, 0x60].map Event.txByte, .sent) := by decide +kernel

/-- R203: three bytes are drained in order (V3.25's `A0 00 07`). -/
theorem test_poll : after .poll { idle with rxq := [0xA0, 0, 7] } (fun t => (t.cnt, t.buf.take 2, t.rxq)) =
    some (2, [0, 7], []) := by decide

/-- R204: the payload of program P3. -/
theorem test_respHandler : after (.respHandler [5, 0, 0, 0, 0]) idle (fun t => (t.word, t.mode)) =
    some (5, .received) := by decide

/-- S7 and R205: the fields while RECEIVED, nothing while SENT. -/
theorem test_getMessage :
    answerOf .getMessage { idle with mode := .received, word := 5 } = some (.message (some ⟨0, 0, 0, 5⟩)) ∧
    answerOf .getMessage { idle with mode := .sent, word := 5 } = some (.message none) := by decide

/-- R206: the word stays. -/
theorem test_stopSession :
    after .stopSession { idle with mode := .received, word := 5 } (fun t => (t.mode, t.word)) =
    some (.idle, 5) := by decide

/-! ### Witnesses: what each statement assumes can hold -/

theorem witness_StepKeepsInvariant :
    (small 8 .wf false frame1).Inv ∧
    ∃ t, step { small 8 .wf false frame1 with inq := rxInputs [0x60] } = .next t := by
  refine ⟨by decide, _, rfl⟩

theorem witness_NoRuleWritesAnErrorMode :
    (∃ t, exec .poll { idle with mode := .errorProtocol } = .next t ∧ t.mode = .errorProtocol) ∧
    (∃ t, exec .poll { idle with mode := .errorTimeout } = .next t ∧ t.mode = .errorTimeout) ∧
    idle.ModeLegal ∧ ∃ t, step { idle with inq := [.txn .poll] } = .next t := by
  refine ⟨⟨_, rfl, rfl⟩, ⟨_, rfl, rfl⟩, by decide, _, rfl⟩

theorem witness_ParametersNeverChange :
    (∃ t, exec .wsStart idle = .next t) ∧ ∃ t, step { idle with inq := rxInputs [0xA0] } = .next t :=
  ⟨⟨_, rfl⟩, _, rfl⟩

theorem witness_RegistryWriters :
    (∃ t, exec (.regWrite 5 7) idle = .next t) ∧ Instr.regWrite 5 7 ≠ .reset ∧
    ∀ size : Nat, Instr.regWrite 5 7 ≠ .regWrite 4 size :=
  ⟨⟨_, rfl⟩, by simp, by simp⟩

theorem witness_TraceOnlyGrows :
    (∃ t, exec .reset idle = .next t) ∧ ∃ t, exec .wfStop (small 8 .wf false frame1) = .next t :=
  ⟨⟨_, rfl⟩, _, rfl⟩

/-- With a transaction waiting, with the peer's bytes waiting, and with nothing. -/
theorem witness_EveryTransactionCompletes :
    idle.Inv ∧ ({ idle with inq := [.txn .poll, .peer [1]] } : State).Inv ∧
    ({ idle with inq := [.peer [1]] } : State).Inv := by decide

theorem witness_StepRunsDecodedInput :
    ({ idle with inq := rxInputs [0xA0] } : State).inq = .txn (.rxByte 0xA0) :: [] ∧
    (decode idle.view (.rxByte 0xA0)).wellFormed = true ∧
    ({ idle with inq := [.peer [1]] } : State).inq = .peer [1] :: [] ∧ idle.inq = [] := by
  decide

theorem witness_NumeralsAndTransactionsAgree :
    readTxn ⟨.msgPack, [7, 255, 255, 255]⟩ = .ok (.msgPack 7 255 255 255) ∧ Port.msgPack ≠ .nibJoin := by decide

/-- Every clause, at both ends of the counter's range. -/
theorem witness_ReceiveSelectionTable :
    (∀ v ∈ [(⟨.wf, false, 0, 6, 8⟩ : ParserView), ⟨.wf, false, 8, 6, 8⟩], 8 ≤ v.bufCap ∧ v.cnt ≤ v.bufCap) ∧
    (0x10 : Byte).extractLsb' 4 4 ≠ (0 : BitVec 4) ∧ (0xA0 : Byte).extractLsb' 4 4 ≠ (0 : BitVec 4) ∧
    ¬ ((0xA0 : Byte) = 0xA0 ∧ 8 = 0) ∧ (0x0F : Byte).extractLsb' 4 4 = (0 : BitVec 4) ∧
    (6 : Nibble) ++ (0x04 : Byte).extractLsb' 0 4 = (100 : BitVec 8) ∧
    (6 : Nibble) ++ (0x0F : Byte).extractLsb' 0 4 ≠ (100 : BitVec 8) := by decide

theorem witness_DecodeOfEncode :
    (Instr.wfOverflowAbort 3).wellFormed = true ∧ (Instr.wfOverflowAbort 3).admitted ⟨.wf, false, 8, 0, 8⟩ = true ∧
    encode (.wfOverflowAbort 3) = some (.rxByte 3) ∧
    (Instr.send 7 255 255 255).wellFormed = true ∧
    (Instr.send 7 255 255 255).admitted ⟨.ws, false, 0, 0, 8⟩ = true ∧
    encode (.send 7 255 255 255) = some (.send 7 255 255 255) := by decide

theorem witness_EncodeOfDecode :
    ∀ v ∈ [(⟨.wf, false, 8, 0, 8⟩ : ParserView), ⟨.ws, false, 0, 0, 8⟩], 8 ≤ v.bufCap ∧ v.cnt ≤ v.bufCap := by
  decide

theorem witness_SerFrameBytes : ([0x12, 0x34] : List Byte)[1]? = some 0x34 ∧ 1 ≤ ([0x12] : List Byte).length := by
  decide

theorem witness_ClassifyResults :
    ∀ b ∈ [(0x10 : Byte), 0xFF, 0x61], b.extractLsb' 4 4 ≠ (0 : BitVec 4) ∧ b ≠ 0xA0 ∧ b ≠ 0x60 := by decide

/-- For WsStartOpensFrame and IgnoredBytesChangeNothing. -/
theorem witness_idle_and_open :
    idle.st = .ws ∧ (0x60 : Byte) ≠ 0xA0 ∧ (small 8 .wf true []).st = .wf ∧ (small 8 .wf true []).cnt = 0 := by
  decide

theorem witness_WfStopClosesFrame :
    (small 8 .wf true [1]).st = .wf ∧ (small 8 .wf true [1]).strm = true ∧
    (small 8 .wf false frame1).st = .wf ∧ (small 8 .wf false frame1).strm = false := by decide

/-- Both reasons to drop, each where the other does not hold. -/
theorem witness_WfStopDropsBadLength :
    (small 8 .wf false []).cnt < 8 ∧ (small 8 .wf false [0, 1, 2, 3, 4, 5]).cnt < 8 ∧
    (small 9 .wf false (List.replicate 9 0)).cnt % 2 = 1 ∧ ¬ (small 9 .wf false (List.replicate 9 0)).cnt < 8 ∧
    (small 9 .wf false (List.replicate 9 0)).st = .wf ∧ (small 9 .wf false (List.replicate 9 0)).strm = false := by
  decide

/-- The three clauses at the least length 8: registered, unknown, registered with another size. -/
theorem witness_WfStopRoutesFrame :
    let s := small 8 .wf false frame1
    let u := small 8 .wf false [0, 7, 0, 0, 0, 0, 0, 0]
    let m := small 8 .wf false [0, 4, 0, 0, 0, 0, 0, 0]
    s.st = .wf ∧ s.strm = false ∧ 8 ≤ s.cnt ∧ s.cnt % 2 = 0 ∧ s.bufRead 0 ++ s.bufRead 1 = (1 : BitVec 8) ∧
    s.regRead 1 = ⟨true, (s.cnt - 6) / 2⟩ ∧
    u.bufRead 0 ++ u.bufRead 1 = (7 : BitVec 8) ∧ (u.regRead 7).valid = false ∧
    m.bufRead 0 ++ m.bufRead 1 = (4 : BitVec 8) ∧ (m.regRead 4).valid = true ∧
    (m.regRead 4).size ≠ (m.cnt - 6) / 2 := by decide

theorem witness_WfStopDeliversResponse :
    let s := small 16 .wf false frame5
    s.st = .wf ∧ s.strm = false ∧ 8 ≤ s.cnt ∧ s.cnt % 2 = 0 ∧ s.bufRead 0 ++ s.bufRead 1 = (5 : BitVec 8) ∧
    s.regRead 5 = ⟨true, (s.cnt - 6) / 2⟩ := by decide

theorem witness_AbortsReturnToWaiting :
    let s := small 8 .wf false (List.replicate 8 1)
    s.st = .wf ∧ ((0x11 : Byte).extractLsb' 4 4 ≠ (0 : BitVec 4) ∧ (0x11 : Byte) ≠ 0xA0 ∧ (0x11 : Byte) ≠ 0x60) ∧
    s.cnt ≠ 0 ∧ s.cnt = s.params.bufCap := by decide

/-- At `cnt` 0 and at the last free entry. -/
theorem witness_NibAppendStoresNibble :
    ∀ s ∈ [small 8 .wf false [], small 8 .wf false (List.replicate 7 1)],
      s.st = .wf ∧ s.cnt ≠ 1 ∧ s.cnt < s.params.bufCap ∧ s.buf.length = s.params.bufCap := by decide

theorem witness_IdPairCompletesIdentifier :
    let s := small 8 .wf false [6]
    s.st = .wf ∧ s.cnt = 1 ∧ s.strm = false ∧ s.Inv ∧ s.bufRead 0 ++ (5 : Nibble) ≠ (100 : BitVec 8) := by
  decide

theorem witness_StreamEnterSetsStreaming :
    let s := small 8 .wf false [6]
    s.st = .wf ∧ s.cnt = 1 ∧ s.strm = false ∧ s.Inv ∧ s.bufRead 0 = 6 := by decide

theorem witness_StreamByteDeliversPair :
    let s := small 8 .wf true [0xA]
    s.st = .wf ∧ s.cnt = 1 ∧ s.strm = true ∧ s.Inv := by decide

theorem witness_ProcessFrameHandsOff :
    let s := small 8 .wf false frame1
    let d := small 8 .wf false [0, 1, 2, 3, 4, 5, 6]
    s.st = .wf ∧ s.strm = false ∧ 8 ≤ s.cnt ∧ s.cnt % 2 = 0 ∧
    d.st = .wf ∧ d.strm = false ∧ d.cnt < 8 := by decide

/-- For RegWriteOverwritesEntry, DispatchRoutes and DispatchRunsResponseHandler. -/
theorem witness_DispatchRoutes :
    (3 : Byte) ≠ 4 ∧ idle.regRead 1 = ⟨true, ([9] : List Byte).length⟩ ∧ (idle.regRead 0).valid = false ∧
    (idle.regRead 255).valid = false ∧ (idle.regRead 4).valid = true ∧
    (idle.regRead 4).size ≠ ([] : List Byte).length ∧
    idle.regRead 5 = ⟨true, ([5, 0, 0, 0, 0] : List Byte).length⟩ := by decide

/-- A step that does dispatch; for DispatchedFramesAreRegistered and RegistryEntry100IsNeverRead. -/
theorem witness_DispatchedFramesAreRegistered :
    let s : State := { small 8 .wf false frame1 with inq := rxInputs [0x60] }
    s.Inv ∧ (match step s with
      | .next t => decide (newEvents s t = [.frameEnd, .dispatch 1 [0xFF]])
      | _ => false) = true := by decide

/-- Two trailers that differ. -/
theorem witness_TrailerIsNeverChecked :
    let s := small 8 .wf false frame1
    let other : List Nibble := [0, 1, 0xF, 0xF, 0xF, 0xF, 0xF, 0xF]
    s.Inv ∧ s.st = .wf ∧ s.strm = false ∧ 8 ≤ s.cnt ∧ other.length = s.buf.length ∧
    (∀ i < s.cnt - 4, other[i]? = s.buf[i]?) ∧ other ≠ s.buf := by decide

/-- Each clause has its words. -/
theorem witness_ParForceSetsTopBit :
    popcount 0 % 2 = 0 ∧ popcount 0x7FFFFFFF % 2 = 1 ∧ (0x7FFFFFFF : Word32).getLsbD 31 = false ∧
    (0x80000000 : Word32).getLsbD 31 = true := by decide

/-- A type 3 record by R54 and R76: its light level ends it, `34 12`; then the records of its three values. -/
theorem test_light_level :
    let fs := (packetType 3).bind PacketType.fields |>.getD []
    let r : List Byte := [4, 3, 2, 1, 0xA, 0xB, 0xC, 0xD, 0x34, 0x12]
    let temp : FieldValue := .bytes [0xA, 0xB, 0xC, 0xD]
    readFields .le fs r = [.number 0x01020304, temp, .number 0x1234] ∧
    readFields .be fs r = [.number 0x04030201, temp, .number 0x3412] ∧
    writeFields .le fs [.number 0x01020304, temp, .number 0x1234] = r ∧
    writeFields .be fs [.number 0x04030201, temp, .number 0x3412] = r := by decide

/-- A field of each kind and width, at the start, inside and at the end of a record; the largest values that fit. -/
theorem witness_WordBytesInverse :
    let light : RecField := ⟨"light level", 8, 2, .ordered⟩
    let word : RecField := ⟨"payload word", 0, 4, .ordered⟩
    let temp : RecField := ⟨"external temperature", 4, 4, .raw⟩
    let pad : List Byte := [0, 1, 2, 3, 4, 5, 6, 7]
    light.kind = .ordered ∧ light.width = 2 ∧ pad.length = light.offset ∧
    word.kind = .ordered ∧ word.width = 4 ∧ ([] : List Byte).length = word.offset ∧
    temp.kind = .raw ∧ (pad.take 4).length = temp.offset ∧ ([9, 8, 7, 6] : List Byte).length = temp.width ∧
    light.fits (.number 0xFFFF) = true ∧ light.fits (.number 0x10000) = false ∧
    word.fits (.number 0xFFFFFFFF) = true ∧ temp.fits (.bytes [9, 8, 7, 6]) = true := by decide

/-- The signs' boundary; and both byte orders, for WordBytesInverse. -/
theorem witness_ValueViews :
    (0x7F : Byte).toNat < 128 ∧ 128 ≤ (0x80 : Byte).toNat ∧ idle.params.recEndian = .le ∧
    ({ idle with params := ⟨8, .be⟩ } : State).params.recEndian = .be := by decide

theorem witness_PollLoop :
    idle.rxq = [] ∧ idle.Inv ∧ ({ idle with rxq := [0xA0, 0] } : State).rxq = 0xA0 :: [0] ∧
    ∃ u, step { idle with rxq := [0], inq := [.txn (.rxByte 0xA0)] } = .next u := by
  refine ⟨by decide, by decide, rfl, _, rfl⟩

/-- For RespHandlerOnOtherSizes and GetMessageReadsWord. -/
theorem witness_RespHandlerOnOtherSizes :
    ([] : List Byte).length < 4 ∧ ([1, 2, 3] : List Byte).length < 4 ∧
    ({ idle with mode := .received } : State).mode = .received ∧ idle.mode ≠ .received := by decide

theorem witness_OnlyAResponseEntersReceived :
    let s : State := { small 16 .wf false frame5 with inq := rxInputs [0x60] }
    s.mode ≠ .received ∧ (match step s with
      | .next t => decide (t.mode = .received)
      | _ => false) = true := by decide

/-- A record of one byte is the largest at capacity 8, and each clause has its starting state. -/
theorem witness_FrameRoundTrip :
    (1 : Byte) ≠ 100 ∧ 1 ≤ ([7] : List Byte).length ∧ ([7] : List Byte).length ≤ idle.params.pmax ∧
    idle.regRead 1 = ⟨true, ([7] : List Byte).length⟩ ∧
    (∀ s ∈ [idle, small 8 .wf false [], small 8 .wf false [2], small 8 .wf true []], s.Inv) ∧
    (small 8 .wf false [2]).cnt ≠ 0 ∧ (small 8 .wf true []).strm = true ∧ (small 8 .wf true []).cnt = 0 := by
  decide

/-- For GarbageIsIgnored and StreamingFrameEvents. -/
theorem witness_GarbageIsIgnored :
    idle.st = .ws ∧ (∀ b ∈ [(0x55 : Byte), 0x60, 0x0F], b ≠ 0xA0) ∧ idle.Inv ∧
    ({ idle with inq := rxInputs (0xA0 :: (splitBytes (100 :: [0x12]) ++ [0x60])) } : State).inq =
      rxInputs (0xA0 :: (splitBytes (100 :: [0x12]) ++ [0x60])) ++ [] := by decide

/-- The least record that does not fit. -/
theorem witness_OversizedFrameIsLost :
    idle.Inv ∧ idle.st = .ws ∧ (4 : Byte) ≠ 100 ∧
    idle.params.bufCap < 2 * ([1, 2] : List Byte).length + 6 := by decide

theorem witness_PacketTypeSizes :
    (packetType 5).bind (fun p => p.fields.bind fun fs => fs[1]?) = some ⟨"response status", 4, 1, .raw⟩ ∧
    (packetType 5).bind PacketType.size = some ([5, 0, 0, 0, 0] : List Byte).length ∧
    packetType 100 ≠ none ∧ packetType 7 = none := by
  decide

/-- R31 at a state with a completed identifier, and the broken state it rules out. -/
theorem test_inv_excludes : (small 8 .wf false [0, 4]).Inv ∧ ¬ (small 8 .wf false [6, 4]).Inv := by
  decide

end Sys2Proof.Tests
end

/-!
The steps of the machine by the head of the input queue (R8, R58, R70, R210).
-/
namespace Sys2Proof.Proofs.Scope

open Sys2Proof Sys2Proof.Machine

/-- R8, R70: the parser's view is not touched when the transaction is taken off the queue, so what runs is what the
transaction decodes to in the state before the step. -/
theorem step_txn_eq_exec_decode {s : State} {t : Txn} {q : List Input} (hq : s.inq = .txn t :: q) :
    step s = exec (decode s.view t) { s with inq := q } := by
  rw [step_txn hq, runTxn, State.view_inq]

/-- Settles O8: one case for each shape of the input queue, a transaction, the peer's bytes, or nothing. -/
theorem stepRunsDecodedInput : Obligations.StepRunsDecodedInput := by
  refine ⟨?transaction, ?peer, ?empty⟩
  case transaction =>
    intro s t q hq
    exact step_txn_eq_exec_decode hq
  case peer =>
    intro s bs q hq
    rw [step_peer hq, State.deliver]
  case empty =>
    intro s hq
    exact step_nil hq

end Sys2Proof.Proofs.Scope

/-!
The conditions of the receive operations as propositions over what the selection reads (R131 to R140), and that the
selection of R130 meets them.
-/
namespace Sys2Proof

open Machine (nibJoin nibbleByte highNibble classify dupQual)

section
variable (v : ParserView) (b : Byte) (n : Nibble)

@[simp] theorem Instr.admitted_wsStart : Instr.wsStart.admitted v = true ↔ v.st = .ws := by
  simp [Instr.admitted]

@[simp] theorem Instr.admitted_wsIgnore :
    (Instr.wsIgnore b).admitted v = true ↔ v.st = .ws ∧ b ≠ Config.startByte := by
  simp [Instr.admitted]

@[simp] theorem Instr.admitted_wfStop : Instr.wfStop.admitted v = true ↔ v.st = .wf := by
  simp [Instr.admitted]

@[simp] theorem Instr.admitted_wfDupStart : Instr.wfDupStart.admitted v = true ↔ v.st = .wf ∧ v.cnt = 0 := by
  simp [Instr.admitted]

@[simp] theorem Instr.admitted_wfFramingAbort :
    (Instr.wfFramingAbort b).admitted v = true ↔
      v.st = .wf ∧ (classify b = .high ∨ b = Config.startByte ∧ v.cnt ≠ 0) := by
  simp [Instr.admitted]

@[simp] theorem Instr.admitted_wfNibAppend :
    (Instr.wfNibAppend n).admitted v = true ↔ v.st = .wf ∧ v.cnt ≠ 1 ∧ v.cnt < v.bufCap := by
  simp [Instr.admitted, and_assoc]

@[simp] theorem Instr.admitted_wfIdPair :
    (Instr.wfIdPair n).admitted v = true ↔
      v.st = .wf ∧ v.cnt = 1 ∧ v.strm = false ∧ Machine.nibJoin v.buf0 n ≠ Config.streamId := by
  simp [Instr.admitted, and_assoc]

@[simp] theorem Instr.admitted_wfStreamEnter :
    Instr.wfStreamEnter.admitted v = true ↔
      v.st = .wf ∧ v.cnt = 1 ∧ v.strm = false ∧ Machine.nibJoin v.buf0 4 = Config.streamId := by
  simp [Instr.admitted, and_assoc]

@[simp] theorem Instr.admitted_wfStreamByte :
    (Instr.wfStreamByte n).admitted v = true ↔ v.st = .wf ∧ v.cnt = 1 ∧ v.strm = true := by
  simp [Instr.admitted, and_assoc]

@[simp] theorem Instr.admitted_wfOverflowAbort :
    (Instr.wfOverflowAbort n).admitted v = true ↔ v.st = .wf ∧ v.cnt = v.bufCap := by
  simp [Instr.admitted]

end

/-- R121: the qualifier's two conditions. -/
theorem dupQual_eq_true_iff (b : Byte) (cnt : Nat) : dupQual b cnt = true ↔ b = Config.startByte ∧ cnt = 0 := by
  simp [dupQual]

/-- The low nibble of the identifier 100 is 4, so that WF_STREAM_ENTER's byte is `0x04` (R138). -/
theorem eq_four_of_nibJoin_eq_streamId {h n : Nibble} (hid : nibJoin h n = Config.streamId) : n = 4 := by
  revert h n; decide +kernel

/-- A nibble byte in `WF`: each test of R130 gives its operation's condition. -/
theorem selectRx_nibble_admitted {v : ParserView} (hst : v.st = .wf) (n : Nibble) (hcnt : v.cnt ≤ v.bufCap) :
    (selectRx v (nibbleByte n)).toInstr.admitted v = true := by
  rw [selectRx_nibble hst]
  split_ifs with hfull hstream hid hone
  · exact (Instr.admitted_wfOverflowAbort v n).2 ⟨hst, hfull⟩
  · exact (Instr.admitted_wfStreamByte v n).2 ⟨hst, hstream⟩
  · obtain ⟨hone, hid⟩ := hid
    have hstrm : v.strm = false := by simpa [hone] using hstream
    rw [eq_four_of_nibJoin_eq_streamId hid] at hid
    exact (Instr.admitted_wfStreamEnter v).2 ⟨hst, hone, hstrm, hid⟩
  · have hstrm : v.strm = false := by simpa [hone] using hstream
    exact (Instr.admitted_wfIdPair v n).2 ⟨hst, hone, hstrm, fun h => hid ⟨hone, h⟩⟩
  · exact (Instr.admitted_wfNibAppend v n).2 ⟨hst, hone, by omega⟩

/-- A byte in `WF` that is neither the stop byte nor a nibble byte. -/
theorem selectRx_other_admitted {v : ParserView} (hst : v.st = .wf) {b : Byte} (hstop : b ≠ Config.stopByte)
    (hhigh : highNibble b ≠ 0) : (selectRx v b).toInstr.admitted v = true := by
  rw [selectRx_other hst hstop hhigh]
  split_ifs with hdup
  · exact (Instr.admitted_wfDupStart v).2 ⟨hst, ((dupQual_eq_true_iff b v.cnt).1 hdup).2⟩
  · refine (Instr.admitted_wfFramingAbort v b).2 ⟨hst, ?_⟩
    rw [dupQual_eq_true_iff] at hdup
    by_cases hstart : b = Config.startByte
    · exact .inr ⟨hstart, fun h0 => hdup ⟨hstart, h0⟩⟩
    · exact .inl ((Machine.classify_eq_high_iff b).2 ⟨hhigh, hstart, hstop⟩)

/-- R83, R130: with the counter in its range (R24) the selected operation's own condition holds. -/
theorem selectRx_admitted {v : ParserView} (b : Byte) (hcnt : v.cnt ≤ v.bufCap) :
    (selectRx v b).toInstr.admitted v = true := by
  cases hst : v.st with
  | ws =>
    rw [selectRx_ws hst]
    split_ifs with hstart
    · exact (Instr.admitted_wsStart v).2 hst
    · exact (Instr.admitted_wsIgnore v b).2 ⟨hst, hstart⟩
  | wf =>
    by_cases hstop : b = Config.stopByte
    · rw [hstop, selectRx_stop hst]
      exact (Instr.admitted_wfStop v).2 hst
    by_cases hhigh : highNibble b = 0
    · rw [← Machine.nibbleByte_lowNibble hhigh]
      exact selectRx_nibble_admitted hst _ hcnt
    · exact selectRx_other_admitted hst hstop hhigh

end Sys2Proof

/-!
What the operations write, once for all of them: the meanings `exec` gives (`Effect`), the fields no operation but
RESET and REG_WRITE writes (`State.Extends`), and the part of the state that R31 speaks of (`State.parser`).
-/
namespace Sys2Proof.Machine

/-! ### The meanings of the operations -/

/-- What an operation that completes has done, by the shared operation that does it. Which value is returned is left
open, and so is which operation returned it. -/
inductive Effect (s : State) : Instr → State → Prop
  /-- A pure operation or GET_MESSAGE. -/
  | returned (i : Instr) (r : Result) : Effect s i (s.answer r)
  /-- SER_FRAME (R102). -/
  | transmitted (id : Byte) (r bs : List Byte) : Effect s (.serFrame id r) (s.transmit bs)
  /-- SEND (R202). -/
  | requested (type : BitVec 3) (item hb lb : Byte) (bs : List Byte) :
      Effect s (.send type item hb lb) { s.transmit bs with mode := .sent }
  /-- An operation of the receive port, where its rule admits it (R131 to R140). -/
  | received (op : RxOp) (admitted : op.toInstr.admitted s.view = true) : Effect s op.toInstr (s.receive op)
  /-- PROCESS_FRAME (R141). -/
  | processed (n : Nat) : Effect s (.processFrame n) (s.processFrame n)
  /-- DISPATCH (R161). -/
  | routed (id : Byte) (len : Nat) (p : List Byte) : Effect s (.dispatch id len p) (s.route id len p)
  /-- REG_WRITE (R160). -/
  | registered (id : Byte) (size : Nat) : Effect s (.regWrite id size) (s.regWrite id ⟨true, size⟩)
  /-- RESET (R250). -/
  | cleared : Effect s .reset s.blockReset
  /-- POLL (R203). -/
  | polled : Effect s .poll (s.drain s.rxq)
  /-- RESP_HANDLER (R204). -/
  | responded (p : List Byte) : Effect s (.respHandler p) (s.handleResponse p)
  /-- STOP_SESSION (R206). -/
  | stopped : Effect s .stopSession { s with mode := .idle }

theorem Effect.of_next {s t u : State} {i : Instr} (he : Effect s i u)
    (h : (.next u : StepOutcome) = .next t) : Effect s i t := by
  injection h with h
  exact h ▸ he

/-- A receive operation that completes was admitted. -/
theorem effect_of_exec_toInstr {s t : State} {op : RxOp} (h : exec op.toInstr s = .next t) :
    Effect s op.toInstr t := by
  rw [exec_toInstr] at h
  obtain ⟨hadm, rfl⟩ := whenAdmitted_next h
  exact .received op hadm

/-- The inversion of `exec`: each arm is one of the shared operations. -/
theorem effect_of_exec {i : Instr} {s t : State} (h : exec i s = .next t) : Effect s i t := by
  cases i with
  | nibSplit | nibJoin | classifyStart | classifyStop | classifyNibble | classifyHigh | dupQual | parity32
  | parForce | msgPack | msgUnpack | viewU16 | viewF88 | wordToBytes | bytesToWord | getMessage =>
    exact .of_next (.returned _ _) h
  | serFrame id r => exact .of_next (.transmitted id r _) h
  | send type item hb lb => exact .of_next (.requested type item hb lb _) h
  | wsStart => exact effect_of_exec_toInstr (op := .wsStart) h
  | wsIgnore b => exact effect_of_exec_toInstr (op := .wsIgnore b) h
  | wfStop => exact effect_of_exec_toInstr (op := .wfStop) h
  | wfDupStart => exact effect_of_exec_toInstr (op := .wfDupStart) h
  | wfFramingAbort b => exact effect_of_exec_toInstr (op := .wfFramingAbort b) h
  | wfNibAppend n => exact effect_of_exec_toInstr (op := .wfNibAppend n) h
  | wfIdPair n => exact effect_of_exec_toInstr (op := .wfIdPair n) h
  | wfStreamEnter => exact effect_of_exec_toInstr (op := .wfStreamEnter) h
  | wfStreamByte n => exact effect_of_exec_toInstr (op := .wfStreamByte n) h
  | wfOverflowAbort n => exact effect_of_exec_toInstr (op := .wfOverflowAbort n) h
  | processFrame n =>
    obtain ⟨-, rfl⟩ := whenAdmitted_next h
    exact .processed n
  | dispatch id len p => exact .of_next (.routed id len p) h
  | regWrite id size => exact .of_next (.registered id size) h
  | reset => exact .of_next .cleared h
  | poll => exact .of_next .polled h
  | respHandler p => exact .of_next (.responded p) h
  | stopSession => exact .of_next .stopped h

/-! ### What no operation but RESET and REG_WRITE writes -/

/-- The parameters and the registry are kept, and the trace has at most grown (R26, R28, R32). -/
structure State.Extends (s t : State) : Prop where
  params : t.params = s.params
  reg : t.reg = s.reg
  ev : ∃ es, t.ev = s.ev ++ es

/-- Without an event the trace stays. -/
theorem State.Extends.of_silent {s t : State} (hp : t.params = s.params) (hr : t.reg = s.reg)
    (he : t.ev = s.ev) : s.Extends t :=
  ⟨hp, hr, [], by simp [he]⟩

theorem State.Extends.trans {s t u : State} (h₁ : s.Extends t) (h₂ : t.Extends u) : s.Extends u := by
  obtain ⟨es₁, he₁⟩ := h₁.ev
  obtain ⟨es₂, he₂⟩ := h₂.ev
  exact ⟨h₂.params.trans h₁.params, h₂.reg.trans h₁.reg, es₁ ++ es₂, by rw [he₂, he₁, List.append_assoc]⟩

theorem State.emit_extends (s : State) (e : Event) : s.Extends (s.emit e) := ⟨rfl, rfl, [e], rfl⟩

theorem State.transmit_extends (s : State) (bs : List Byte) : s.Extends (s.transmit bs) :=
  ⟨rfl, rfl, bs.map Event.txByte, rfl⟩

theorem State.drop_extends (s : State) (d : Diag) : s.Extends (s.drop d) := .of_silent rfl rfl rfl

theorem State.consume_extends (s : State) (id : Byte) (p : List Byte) : s.Extends (s.consume id p) := by
  rw [s.consume_eq id p]
  exact .of_silent rfl rfl rfl

theorem State.route_extends (s : State) (id : Byte) (len : Nat) (p : List Byte) :
    s.Extends (s.route id len p) := by
  obtain ⟨-, h⟩ | ⟨-, h⟩ | ⟨-, -, h⟩ := s.route_cases id len p <;> rw [h]
  · exact (s.emit_extends _).trans (State.consume_extends _ id p)
  · exact s.drop_extends _
  · exact s.drop_extends _

theorem State.processFrame_extends (s : State) (n : Nat) : s.Extends (s.processFrame n) := by
  obtain ⟨-, h⟩ | ⟨-, -, h⟩ := s.processFrame_cases n <;> rw [h]
  · exact s.drop_extends _
  · exact s.route_extends _ _ _

/-- Closing a frame writes neither parameters nor registry nor trace. -/
theorem State.Extends.close {s t : State} (h : s.Extends t) : s.Extends { t with st := .ws, strm := false } :=
  ⟨h.params, h.reg, h.ev⟩

theorem State.wfStop_extends (s : State) : s.Extends s.wfStop := by
  cases hstrm : s.strm with
  | true =>
    rw [State.wfStop_streaming hstrm]
    exact (s.emit_extends _).close
  | false =>
    rw [State.wfStop_buffered hstrm]
    exact ((s.emit_extends _).trans (State.processFrame_extends _ _)).close

theorem State.receive_extends (s : State) (op : RxOp) : s.Extends (s.receive op) := by
  cases op with
  | wfStop => exact s.wfStop_extends
  | wfStreamByte n => exact ⟨rfl, rfl, _, s.wfStreamByte_ev n⟩
  | wsStart | wsIgnore | wfDupStart | wfFramingAbort | wfNibAppend | wfIdPair | wfStreamEnter | wfOverflowAbort =>
    exact .of_silent rfl rfl rfl

/-- POLL's loop, byte by byte (R203). -/
theorem State.drain_extends (s : State) (bs : List Byte) : s.Extends (s.drain bs) := by
  induction bs generalizing s with
  | nil => exact .of_silent rfl rfl rfl
  | cons b rest ih =>
    have htaken : s.Extends { s with rxq := rest } := .of_silent rfl rfl rfl
    exact (htaken.trans (State.receive_extends _ _)).trans (ih _)

/-- R26, R28, R32: what an operation that completes does to the parameters, the registry and the trace. -/
theorem exec_extends {i : Instr} {s t : State} (h : exec i s = .next t) :
    (i = .reset ∧ t = s.blockReset) ∨ (∃ id size, i = .regWrite id size ∧ t = s.regWrite id ⟨true, size⟩) ∨
      s.Extends t := by
  cases effect_of_exec h with
  | cleared => exact .inl ⟨rfl, rfl⟩
  | registered id size => exact .inr (.inl ⟨id, size, rfl, rfl⟩)
  | transmitted => exact .inr (.inr (s.transmit_extends _))
  | requested => exact .inr (.inr ⟨rfl, rfl, (s.transmit_extends _).ev⟩)
  | received op => exact .inr (.inr (s.receive_extends op))
  | processed n => exact .inr (.inr (s.processFrame_extends n))
  | routed id len p => exact .inr (.inr (s.route_extends id len p))
  | polled => exact .inr (.inr (s.drain_extends _))
  | returned | responded | stopped => exact .inr (.inr (.of_silent rfl rfl rfl))

/-! ### The part of the state that R31 speaks of -/

/-- The fields the invariant reads: the parameters, `st`, `strm`, `cnt` and `buf`. -/
def State.parser (s : State) : Params × ParserState × Bool × Nat × List Nibble :=
  (s.params, s.st, s.strm, s.cnt, s.buf)

/-- The invariant depends on these fields alone. -/
theorem State.Inv.congr {s t : State} (h : t.parser = s.parser) (hs : s.Inv) : t.Inv := by
  simp only [State.parser, Prod.mk.injEq] at h
  obtain ⟨hparams, hst, hstrm, hcnt, hbuf⟩ := h
  simpa only [State.Inv, State.StorageInv, State.ControlInv, State.pairAt_congr hbuf, hparams, hst, hstrm, hcnt,
    hbuf] using hs

theorem State.consume_parser (s : State) (id : Byte) (p : List Byte) : (s.consume id p).parser = s.parser := by
  rw [s.consume_eq id p]
  rfl

theorem State.route_parser (s : State) (id : Byte) (len : Nat) (p : List Byte) :
    (s.route id len p).parser = s.parser := by
  obtain ⟨-, h⟩ | ⟨-, h⟩ | ⟨-, -, h⟩ := s.route_cases id len p <;> rw [h]
  · exact State.consume_parser _ id p
  · rfl
  · rfl

theorem State.processFrame_parser (s : State) (n : Nat) : (s.processFrame n).parser = s.parser := by
  obtain ⟨-, h⟩ | ⟨-, -, h⟩ := s.processFrame_cases n <;> rw [h]
  · rfl
  · exact s.route_parser _ _ _

/-! ### The three shapes of a state of the invariant: no frame open, identifier not complete, identifier complete -/

theorem State.inv_of_ws {t : State} (hstore : t.StorageInv) (hcnt : t.cnt ≤ t.params.bufCap) (hst : t.st = .ws)
    (hstrm : t.strm = false) : t.Inv := by
  refine ⟨hstore, hcnt, fun _ => hstrm, ?_, ?_⟩ <;> simp [hst, hstrm]

theorem State.inv_of_cnt_le_one {t : State} (hstore : t.StorageInv) (hst : t.st = .wf) (hcnt : t.cnt ≤ 1) :
    t.Inv := by
  have hcap : 8 ≤ t.params.bufCap := hstore.1
  refine ⟨hstore, by omega, by simp [hst], fun _ => ⟨hst, hcnt⟩, ?_⟩
  rintro ⟨-, -, h2⟩
  omega

theorem State.inv_of_identified {t : State} (hstore : t.StorageInv) (hst : t.st = .wf) (hstrm : t.strm = false)
    (hcnt : t.cnt ≤ t.params.bufCap) (hid : t.pairAt 0 ≠ Config.streamId) : t.Inv :=
  ⟨hstore, hcnt, by simp [hst], by simp [hstrm], fun _ => hid⟩

theorem State.reset_inv : State.reset.Inv :=
  State.inv_of_ws State.reset_storage (Nat.zero_le _) rfl rfl

theorem State.blockReset_inv {s : State} (h : s.Inv) : s.blockReset.Inv :=
  State.inv_of_ws (State.blockReset_storage h.1) (Nat.zero_le _) rfl rfl

/-- Returning to `WS` keeps the invariant, from wherever (R133, R222). -/
theorem State.close_inv {s : State} (h : s.Inv) : ({ s with st := .ws, strm := false } : State).Inv := by
  obtain ⟨hstore, hcnt, -⟩ := h
  exact State.inv_of_ws hstore hcnt rfl rfl

theorem State.abort_inv {s : State} (d : Diag) (h : s.Inv) : (s.abort d).Inv :=
  State.close_inv (h.congr (t := s.label d) rfl)

theorem State.wfStop_inv {s : State} (h : s.Inv) : s.wfStop.Inv := by
  cases hstrm : s.strm with
  | true =>
    rw [State.wfStop_streaming hstrm]
    exact State.close_inv (h.congr (t := s.emit .frameEnd) rfl)
  | false =>
    rw [State.wfStop_buffered hstrm]
    exact State.close_inv (h.congr (State.processFrame_parser (s.emit .frameEnd) s.cnt))

theorem State.wsStart_inv {s : State} (h : s.Inv) : s.wsStart.Inv :=
  State.inv_of_cnt_le_one (State.wsStart_storage h.1) rfl (Nat.zero_le _)

/-- Once both of its nibbles are stored, an append leaves the identifier alone. -/
theorem State.pairAt_bufPush_of_two_le {s : State} (n : Nibble) (h : 2 ≤ s.cnt) :
    (s.bufPush n).pairAt 0 = s.pairAt 0 := by
  simp only [State.pairAt]
  rw [State.bufRead_bufPush_of_ne s n (by omega), State.bufRead_bufPush_of_ne s n (by omega)]

/-- An append at entry 1 completes the identifier. -/
theorem State.pairAt_bufPush_of_cnt_eq_one {s : State} (n : Nibble) (h : s.cnt = 1) (hlen : 1 < s.buf.length) :
    (s.bufPush n).pairAt 0 = nibJoin (s.bufRead 0) n := by
  have hlow : (s.bufPush n).bufRead 1 = n := by
    simpa only [h] using State.bufRead_bufPush_self s n (h ▸ hlen)
  simp only [State.pairAt, Nat.zero_add, hlow]
  rw [State.bufRead_bufPush_of_ne s n (by omega)]

/-- R136: the first nibble, or a nibble of the body behind the identifier. -/
theorem State.nibAppend_inv {s : State} (n : Nibble) (h : s.Inv) (hst : s.st = .wf) (hne : s.cnt ≠ 1)
    (hlt : s.cnt < s.params.bufCap) : (s.bufPush n).Inv := by
  obtain ⟨hstore, -, -, hstream, hid⟩ := h
  have hstore' := State.bufPush_storage n hstore
  by_cases h0 : s.cnt = 0
  · exact State.inv_of_cnt_le_one hstore' hst (by simp [h0])
  · have h2 : 2 ≤ s.cnt := by omega
    have hstrm : s.strm = false := by
      by_contra hs
      have := (hstream (by simpa using hs)).2
      omega
    refine State.inv_of_identified hstore' hst hstrm hlt ?_
    rw [State.pairAt_bufPush_of_two_le n h2]
    exact hid ⟨hst, hstrm, h2⟩

/-- R137: the completed identifier is not 100. -/
theorem State.idPair_inv {s : State} {n : Nibble} (h : s.Inv) (hst : s.st = .wf) (h1 : s.cnt = 1)
    (hstrm : s.strm = false) (hid : nibJoin (s.bufRead 0) n ≠ Config.streamId) : (s.bufPush n).Inv := by
  obtain ⟨hstore, -⟩ := h
  have hcap : 8 ≤ s.params.bufCap := hstore.1
  have hlen : 1 < s.buf.length := by rw [hstore.2]; omega
  refine State.inv_of_identified (State.bufPush_storage n hstore) hst hstrm ?_ ?_
  · simp only [State.bufPush_cnt, State.bufPush_params]
    omega
  · rw [State.pairAt_bufPush_of_cnt_eq_one n h1 hlen]
    exact hid

theorem State.wfStreamEnter_inv {s : State} (h : s.Inv) (hst : s.st = .wf) : s.wfStreamEnter.Inv :=
  State.inv_of_cnt_le_one (State.bufPush_storage 4 h.1) hst (Nat.zero_le _)

theorem State.wfStreamByte_inv {s : State} (n : Nibble) (h : s.Inv) (hst : s.st = .wf) : (s.wfStreamByte n).Inv :=
  State.inv_of_cnt_le_one (State.bufPush_storage n h.1) hst (Nat.zero_le _)

/-- Every receive operation keeps the invariant where its rule admits it. -/
theorem State.receive_inv {s : State} {op : RxOp} (h : s.Inv) (hadm : op.toInstr.admitted s.view = true) :
    (s.receive op).Inv := by
  cases op with
  | wsStart => exact State.wsStart_inv h
  | wsIgnore | wfDupStart => exact h
  | wfStop => exact State.wfStop_inv h
  | wfFramingAbort | wfOverflowAbort => exact State.abort_inv _ h
  | wfNibAppend n =>
    obtain ⟨hst, hne, hlt⟩ := (Instr.admitted_wfNibAppend _ n).1 hadm
    exact State.nibAppend_inv n h hst hne hlt
  | wfIdPair n =>
    obtain ⟨hst, h1, hstrm, hid⟩ := (Instr.admitted_wfIdPair _ n).1 hadm
    exact State.idPair_inv h hst h1 hstrm hid
  | wfStreamEnter =>
    obtain ⟨hst, -⟩ := (Instr.admitted_wfStreamEnter _).1 hadm
    exact State.wfStreamEnter_inv h hst
  | wfStreamByte n =>
    obtain ⟨hst, -⟩ := (Instr.admitted_wfStreamByte _ n).1 hadm
    exact State.wfStreamByte_inv n h hst

/-! ### Every operation and every step keeps the invariant -/

/-- BYTE_IN selects an operation that is admitted. -/
theorem State.byteIn_inv {s : State} (b : Byte) (h : s.Inv) : (s.byteIn b).Inv := by
  have ⟨_, hcnt, _⟩ := h
  exact State.receive_inv h (selectRx_admitted b hcnt)

/-- POLL's loop, byte by byte (R203). -/
theorem State.drain_inv {s : State} (bs : List Byte) (h : s.Inv) : (s.drain bs).Inv := by
  induction bs generalizing s with
  | nil => exact h
  | cons b rest ih => exact ih (State.byteIn_inv b (h.congr (t := { s with rxq := rest }) rfl))

/-- R31 under every operation, the internal ones too. -/
theorem exec_inv {i : Instr} {s t : State} (hs : s.Inv) (h : exec i s = .next t) : t.Inv := by
  cases effect_of_exec h with
  | received op hadm => exact State.receive_inv hs hadm
  | polled => exact State.drain_inv _ hs
  | cleared => exact State.blockReset_inv hs
  | processed n => exact hs.congr (s.processFrame_parser n)
  | routed id len p => exact hs.congr (s.route_parser id len p)
  | returned | transmitted | requested | registered | responded | stopped => exact hs.congr rfl

theorem step_inv {s t : State} (hs : s.Inv) (h : step s = .next t) : t.Inv := by
  obtain ⟨-, rfl⟩ | ⟨bs, q, -, rfl⟩ | ⟨x, q, -, hexec⟩ := step_cases h
  · exact hs
  · exact hs.congr rfl
  · exact exec_inv (s := { s with inq := q }) (hs.congr rfl) hexec

end Sys2Proof.Machine

/-!
The statements about the state: reset, the invariant of R31, and what no operation writes.
-/
namespace Sys2Proof.Proofs.StateFields

open Sys2Proof Sys2Proof.Machine

/-- Settles O2: reset is a `WS` state with an empty frame, and every step runs operations that each keep the
invariant. -/
theorem stepKeepsInvariant : Obligations.StepKeepsInvariant :=
  ⟨State.reset_inv, fun _ _ hs h => step_inv hs h⟩

/-- R32, for one operation. -/
theorem exec_params {i : Instr} {s t : State} (h : exec i s = .next t) : t.params = s.params := by
  obtain ⟨-, rfl⟩ | ⟨id, size, -, rfl⟩ | hext := exec_extends h
  · exact s.blockReset_params
  · exact s.regWrite_params id _
  · exact hext.params

/-- Settles O4: no operation writes the parameters, and a step runs one operation or delivers the peer's bytes. -/
theorem parametersNeverChange : Obligations.ParametersNeverChange := by
  refine ⟨fun _ _ _ h => exec_params h, fun s t h => ?_⟩
  obtain ⟨-, rfl⟩ | ⟨bs, q, -, rfl⟩ | ⟨x, q, -, hexec⟩ := step_cases h
  · rfl
  · exact State.deliver_params _ bs
  · exact exec_params (s := { s with inq := q }) hexec

/-- Settles O5: only RESET and REG_WRITE write the registry, and REG_WRITE only the entry it names. -/
theorem registryWriters : Obligations.RegistryWriters := by
  intro i s t h hreset j hj
  obtain ⟨rfl, -⟩ | ⟨id, size, rfl, rfl⟩ | hext := exec_extends h
  · exact absurd rfl hreset
  · have hne : j ≠ id := fun hji => hj size (by rw [hji])
    exact s.regRead_regWrite_of_ne _ hne
  · exact State.regRead_congr hext.reg j

/-- Settles O6: RESET empties the trace, REG_WRITE gives no event, every other operation appends. -/
theorem traceOnlyGrows : Obligations.TraceOnlyGrows := by
  intro i s t h
  obtain ⟨hi, rfl⟩ | ⟨id, size, -, rfl⟩ | hext := exec_extends h
  · exact .inl ⟨hi, s.blockReset_ev⟩
  · exact .inr ⟨[], by simp⟩
  · exact .inr hext.ev

/-- Settles O1: the values of R33 and R201, with the buffer's length from `State.reset_storage`. -/
theorem resetState : Obligations.ResetState :=
  ⟨rfl, rfl, rfl, State.reset_storage.2, State.reset_valid, rfl, rfl, rfl, State.reset_inv⟩

/-- Settles O46: RESET's next state is `blockReset`, an update of the block's fields only. -/
theorem resetFrame : Obligations.ResetFrame :=
  fun s => ⟨s.blockReset, rfl, rfl⟩

end Sys2Proof.Proofs.StateFields

/-!
Encoding: numerals and transactions, and the selection of the receive port as a bijection between wire bytes and
the operations that are admitted (R70 to R73, R83, R130).
-/
namespace Sys2Proof

open Machine (nibJoin nibbleByte highNibble lowNibble classify dupQual)

/-! ### Reading back the numerals that were written -/

section
variable (p : Port)

@[simp] theorem take1_toNat {a : Nat} (x : BitVec a) (k : BitVec a → Txn) : take1 p a [x.toNat] k = .ok (k x) := by
  simp [take1]

@[simp] theorem take2_toNat {a b : Nat} (x : BitVec a) (y : BitVec b) (k : BitVec a → BitVec b → Txn) :
    take2 p a b [x.toNat, y.toNat] k = .ok (k x y) := by
  simp [take2]

@[simp] theorem take4_toNat {a : Nat} (x : BitVec a) (y z u : Byte) (k : BitVec a → Byte → Byte → Byte → Txn) :
    take4 p a [x.toNat, y.toNat, z.toNat, u.toNat] k = .ok (k x y z u) := by
  simp [take4]

@[simp] theorem takeByteNat_toNat (x : Byte) (n : Nat) (k : Byte → Nat → Txn) :
    takeByteNat p [x.toNat, n] k = .ok (k x n) := by
  simp [takeByteNat]

@[simp] theorem takeRecord_toNat (x : Byte) (r : List Byte) (k : Byte → List Byte → Txn) :
    takeRecord p (x.toNat :: r.map BitVec.toNat) k = .ok (k x r) := by
  simp [takeRecord]

end

/-- R101: NIB_JOIN's numerals are two wire bytes, of which it takes the low nibbles. -/
theorem readTxn_nibJoin (h l : Byte) :
    readTxn ⟨.nibJoin, [h.toNat, l.toNat]⟩ = .ok (.nibJoin (lowNibble h) (lowNibble l)) :=
  take2_toNat ..

theorem readTxn_raw (t : Txn) : readTxn t.raw = .ok t := by
  cases t with
  | rst | poll | getMessage | stopSession => rfl
  | rxByte | nibSplit | classify | parity32 | parForce | msgUnpack | wordToBytes => exact take1_toNat ..
  | viewU16 | viewF88 => exact take2_toNat ..
  | msgPack | bytesToWord | send => exact take4_toNat ..
  | regCfg | dupQual => exact takeByteNat_toNat ..
  | txCmd => exact takeRecord_toNat ..
  | nibJoin h l =>
    -- a nibble's numeral is that of the wire byte that carries it
    simpa [Txn.raw] using readTxn_nibJoin (nibbleByte h) (nibbleByte l)

/-- On any other port than NIB_JOIN's no two lists of numerals are read as one transaction. -/
theorem raw_of_readTxn {r : RawTxn} {t : Txn} (h : readTxn r = .ok t) (hport : r.port ≠ .nibJoin) : t.raw = r := by
  obtain ⟨port, operands⟩ := r
  cases port with
  | nibJoin => exact absurd rfl hport
  | rst | poll | getMessage | stopSession =>
    obtain ⟨rfl, rfl⟩ := take0_ok h
    rfl
  | rxByte | nibSplit | classify | parity32 | parForce | msgUnpack | wordToBytes =>
    obtain ⟨x, rfl, rfl⟩ := take1_ok h
    rfl
  | viewU16 | viewF88 =>
    obtain ⟨x, y, rfl, rfl⟩ := take2_ok h
    rfl
  | msgPack | bytesToWord | send =>
    obtain ⟨x, y, z, u, rfl, rfl⟩ := take4_ok h
    rfl
  | regCfg | dupQual =>
    obtain ⟨x, n, rfl, rfl⟩ := takeByteNat_ok h
    rfl
  | txCmd =>
    obtain ⟨x, r, rfl, rfl⟩ := takeRecord_ok h
    rfl

/-! ### The rows of U2 -/

theorem classifyInstr_wellFormed (b : Byte) : (classifyInstr b).wellFormed = true := by
  cases h : classify b <;> simp [classifyInstr, Instr.wellFormed, h]

theorem classifyInstr_admitted (b : Byte) (v : ParserView) : (classifyInstr b).admitted v = true := by
  cases h : classify b <;> simp [classifyInstr, Instr.admitted, h]

/-- Each row of U2 keeps enough of its byte to write it again. -/
theorem encode_classifyInstr (b : Byte) : encode (classifyInstr b) = some (.classify b) := by
  cases h : classify b with
  | start =>
    obtain rfl := (Machine.classify_eq_start_iff b).1 h
    rfl
  | stop =>
    obtain rfl := (Machine.classify_eq_stop_iff b).1 h
    rfl
  | nibble n =>
    obtain rfl := (Machine.classify_eq_nibble_iff b n).1 h
    simp [classifyInstr, encode]
  | high => simp [classifyInstr, encode, h]

/-! ### The receive port -/

/-- The wire byte that asks for a receive operation (R71, R131 to R140). -/
def RxOp.wireByte : RxOp → Byte
  | .wsStart | .wfDupStart => Config.startByte
  | .wfStop => Config.stopByte
  | .wfStreamEnter => nibbleByte 4
  | .wsIgnore b | .wfFramingAbort b => b
  | .wfNibAppend n | .wfIdPair n | .wfStreamByte n | .wfOverflowAbort n => nibbleByte n

theorem RxOp.encode_toInstr (op : RxOp) : encode op.toInstr = some (.rxByte op.wireByte) := by
  cases op <;> rfl

/-- The condition of a receive operation's rule contains what its operand must be. -/
theorem RxOp.wellFormed_of_admitted {op : RxOp} {v : ParserView} (h : op.toInstr.admitted v = true) :
    op.toInstr.wellFormed = true := by
  cases op with
  | wsIgnore b =>
    obtain ⟨-, hb⟩ := (Instr.admitted_wsIgnore v b).1 h
    simpa [RxOp.toInstr, Instr.wellFormed] using hb
  | wfFramingAbort b =>
    obtain ⟨-, hb⟩ := (Instr.admitted_wfFramingAbort v b).1 h
    simpa [RxOp.toInstr, Instr.wellFormed] using hb.imp_right And.left
  | wsStart | wfStop | wfDupStart | wfNibAppend | wfIdPair | wfStreamEnter | wfStreamByte | wfOverflowAbort => rfl

/-- R83: an admitted operation is the one its byte selects. With a capacity of at least 8 the rows for `cnt = 1` and
for a full buffer do not meet. -/
theorem selectRx_wireByte {v : ParserView} {op : RxOp} (hcap : 8 ≤ v.bufCap)
    (h : op.toInstr.admitted v = true) : selectRx v op.wireByte = op := by
  cases op with
  | wsStart =>
    rw [selectRx_ws ((Instr.admitted_wsStart v).1 h)]
    exact if_pos rfl
  | wsIgnore b =>
    obtain ⟨hst, hb⟩ := (Instr.admitted_wsIgnore v b).1 h
    rw [selectRx_ws hst]
    exact if_neg hb
  | wfStop => exact selectRx_stop ((Instr.admitted_wfStop v).1 h)
  | wfDupStart =>
    obtain ⟨hst, h0⟩ := (Instr.admitted_wfDupStart v).1 h
    rw [RxOp.wireByte, selectRx_other hst (by decide) (by decide)]
    exact if_pos ((dupQual_eq_true_iff _ _).2 ⟨rfl, h0⟩)
  | wfFramingAbort b =>
    obtain ⟨hst, hb⟩ := (Instr.admitted_wfFramingAbort v b).1 h
    obtain hhigh | ⟨rfl, hne⟩ := hb
    · obtain ⟨hhigh, hstart, hstop⟩ := (Machine.classify_eq_high_iff b).1 hhigh
      rw [RxOp.wireByte, selectRx_other hst hstop hhigh]
      exact if_neg fun hdup => hstart ((dupQual_eq_true_iff _ _).1 hdup).1
    · rw [RxOp.wireByte, selectRx_other hst (by decide) (by decide)]
      exact if_neg fun hdup => hne ((dupQual_eq_true_iff _ _).1 hdup).2
  | wfNibAppend n =>
    obtain ⟨hst, hne, hlt⟩ := (Instr.admitted_wfNibAppend v n).1 h
    simp [RxOp.wireByte, selectRx_nibble hst, hne, hlt.ne]
  | wfIdPair n =>
    obtain ⟨hst, h1, hstrm, hid⟩ := (Instr.admitted_wfIdPair v n).1 h
    have hfull : 1 ≠ v.bufCap := by omega
    simp [RxOp.wireByte, selectRx_nibble hst, h1, hfull, hstrm, hid]
  | wfStreamEnter =>
    obtain ⟨hst, h1, hstrm, hid⟩ := (Instr.admitted_wfStreamEnter v).1 h
    have hfull : 1 ≠ v.bufCap := by omega
    simpa [RxOp.wireByte, selectRx_nibble hst, h1, hfull, hstrm] using hid
  | wfStreamByte n =>
    obtain ⟨hst, h1, hstrm⟩ := (Instr.admitted_wfStreamByte v n).1 h
    have hfull : 1 ≠ v.bufCap := by omega
    simp [RxOp.wireByte, selectRx_nibble hst, h1, hfull, hstrm]
  | wfOverflowAbort n =>
    obtain ⟨hst, hfull⟩ := (Instr.admitted_wfOverflowAbort v n).1 h
    rw [RxOp.wireByte, selectRx_nibble hst]
    exact if_pos hfull

/-- The selected operation and its operand keep the whole byte: one byte for each operation in one state. -/
theorem wireByte_selectRx (v : ParserView) (b : Byte) : (selectRx v b).wireByte = b := by
  cases hst : v.st with
  | ws =>
    rw [selectRx_ws hst]
    split_ifs with hstart
    · exact hstart.symm
    · rfl
  | wf =>
    by_cases hstop : b = Config.stopByte
    · rw [hstop, selectRx_stop hst]
      rfl
    by_cases hhigh : highNibble b = 0
    · rw [← Machine.nibbleByte_lowNibble hhigh, selectRx_nibble hst]
      split_ifs with hfull hstream hid hone
      · rfl
      · rfl
      · rw [RxOp.wireByte, eq_four_of_nibJoin_eq_streamId hid.2]
      · rfl
      · rfl
    · rw [selectRx_other hst hstop hhigh]
      split_ifs with hdup
      · exact ((dupQual_eq_true_iff b v.cnt).1 hdup).1.symm
      · rfl

/-- A byte that is an admitted operation's wire byte decodes to that operation (R83). -/
theorem decode_rxByte_of_admitted {v : ParserView} {b : Byte} {op : RxOp} (hcap : 8 ≤ v.bufCap)
    (hadm : op.toInstr.admitted v = true) (hb : op.wireByte = b) : decode v (.rxByte b) = op.toInstr := by
  rw [decode_rxByte, ← hb, selectRx_wireByte hcap hadm]

end Sys2Proof

/-!
The statements about the encoding, and the two tables: the classes of a byte (R72) and the packet types (R75, R76).
-/
namespace Sys2Proof.Proofs.Encoding

open Sys2Proof Sys2Proof.Machine

/-- The receive port's half of O10. -/
theorem decode_of_encode_toInstr {op : RxOp} {v : ParserView} {t : Txn} (hcap : 8 ≤ v.bufCap)
    (hadm : op.toInstr.admitted v = true) (henc : encode op.toInstr = some t) : decode v t = op.toInstr := by
  rw [op.encode_toInstr, Option.some.injEq] at henc
  exact henc ▸ decode_rxByte_of_admitted hcap hadm rfl

/-- Settles O10: by the operation's port, where only the receive port (R83) and CLASSIFY (R120) select. -/
theorem decodeOfEncode : Obligations.DecodeOfEncode := by
  intro i v t hcap hwf hadm henc
  cases i with
  | processFrame | dispatch | respHandler => cases henc
  | wsStart => exact decode_of_encode_toInstr (op := .wsStart) hcap hadm henc
  | wsIgnore b => exact decode_of_encode_toInstr (op := .wsIgnore b) hcap hadm henc
  | wfStop => exact decode_of_encode_toInstr (op := .wfStop) hcap hadm henc
  | wfDupStart => exact decode_of_encode_toInstr (op := .wfDupStart) hcap hadm henc
  | wfFramingAbort b => exact decode_of_encode_toInstr (op := .wfFramingAbort b) hcap hadm henc
  | wfNibAppend n => exact decode_of_encode_toInstr (op := .wfNibAppend n) hcap hadm henc
  | wfIdPair n => exact decode_of_encode_toInstr (op := .wfIdPair n) hcap hadm henc
  | wfStreamEnter => exact decode_of_encode_toInstr (op := .wfStreamEnter) hcap hadm henc
  | wfStreamByte n => exact decode_of_encode_toInstr (op := .wfStreamByte n) hcap hadm henc
  | wfOverflowAbort n => exact decode_of_encode_toInstr (op := .wfOverflowAbort n) hcap hadm henc
  | classifyNibble n =>
    cases henc
    simp [decode, classifyInstr]
  | classifyHigh b =>
    have hhigh : classify b = .high := by simpa [Instr.wellFormed] using hwf
    cases henc
    simp [decode, classifyInstr, hhigh]
  | nibSplit | nibJoin | serFrame | classifyStart | classifyStop | dupQual | regWrite | parity32 | parForce
  | msgPack | msgUnpack | viewU16 | viewF88 | wordToBytes | bytesToWord | reset | send | poll | getMessage
  | stopSession =>
    cases henc
    rfl

/-- Settles O11: by the port; a wire byte is recovered from what it selects, and so is a classified byte. -/
theorem encodeOfDecode : Obligations.EncodeOfDecode := by
  intro v t _ hcnt
  cases t with
  | rxByte b =>
    have hadm := selectRx_admitted b hcnt
    refine ⟨RxOp.wellFormed_of_admitted hadm, hadm, ?_⟩
    rw [decode_rxByte, RxOp.encode_toInstr, wireByte_selectRx]
  | classify b => exact ⟨classifyInstr_wellFormed b, classifyInstr_admitted b v, encode_classifyInstr b⟩
  | txCmd | regCfg | rst | nibSplit | nibJoin | dupQual | parity32 | parForce | msgPack | msgUnpack | viewU16
  | viewF88 | wordToBytes | bytesToWord | send | poll | getMessage | stopSession => exact ⟨rfl, rfl, rfl⟩

/-- Settles O9: each row's conditions are those of its operation's rule, and its byte is the operation's. -/
theorem receiveSelectionTable : Obligations.ReceiveSelectionTable := by
  intro v b hcap _
  have select (op : RxOp) (hadm : op.toInstr.admitted v = true) (hb : op.wireByte = b) :
      decode v (.rxByte b) = op.toInstr := decode_rxByte_of_admitted hcap hadm hb
  refine ⟨?wsStart, ?wsIgnore, ?wfStop, ?wfDupStart, ?wfFramingAbort, ?nibble⟩
  case wsStart => exact fun hst hb => select .wsStart ((Instr.admitted_wsStart v).2 hst) hb.symm
  case wsIgnore => exact fun hst hb => select (.wsIgnore b) ((Instr.admitted_wsIgnore v b).2 ⟨hst, hb⟩) rfl
  case wfStop => exact fun hst hb => select .wfStop ((Instr.admitted_wfStop v).2 hst) hb.symm
  case wfDupStart =>
    exact fun hst hb h0 => select .wfDupStart ((Instr.admitted_wfDupStart v).2 ⟨hst, h0⟩) hb.symm
  case wfFramingAbort =>
    intro hst hhigh hstop hdup
    refine select (.wfFramingAbort b) ((Instr.admitted_wfFramingAbort v b).2 ⟨hst, ?_⟩) rfl
    by_cases hstart : b = Config.startByte
    · exact .inr ⟨hstart, fun h0 => hdup ⟨hstart, h0⟩⟩
    · exact .inl ((classify_eq_high_iff b).2 ⟨hhigh, hstart, hstop⟩)
  case nibble =>
    intro hst hhigh
    have hb : nibbleByte (lowNibble b) = b := nibbleByte_lowNibble hhigh
    refine ⟨?full, ?stream, ?enter, ?pair, ?append⟩
    case full =>
      exact fun hfull => select (.wfOverflowAbort _) ((Instr.admitted_wfOverflowAbort v _).2 ⟨hst, hfull⟩) hb
    case stream =>
      exact fun h1 hs => select (.wfStreamByte _) ((Instr.admitted_wfStreamByte v _).2 ⟨hst, h1, hs⟩) hb
    case enter =>
      intro h1 hs hid
      have hid : nibJoin v.buf0 (lowNibble b) = Config.streamId := (nibJoin_eq_append _ _).trans hid
      have h4 : lowNibble b = 4 := eq_four_of_nibJoin_eq_streamId hid
      rw [h4] at hid hb
      exact select .wfStreamEnter ((Instr.admitted_wfStreamEnter v).2 ⟨hst, h1, hs, hid⟩) hb
    case pair =>
      intro h1 hs hid
      rw [← nibJoin_eq_append] at hid
      exact select (.wfIdPair _) ((Instr.admitted_wfIdPair v _).2 ⟨hst, h1, hs, hid⟩) hb
    case append =>
      exact fun hne hlt => select (.wfNibAppend _) ((Instr.admitted_wfNibAppend v _).2 ⟨hst, hne, hlt⟩) hb

/-- Settles O60: the readers accept exactly the numerals of their operands. -/
theorem numeralsAndTransactionsAgree : Obligations.NumeralsAndTransactionsAgree :=
  ⟨readTxn_raw, fun _ _ => raw_of_readTxn, readTxn_nibJoin⟩

/-- Settles O12: closed words, evaluated. -/
theorem decodedWords : Obligations.DecodedWords := by
  unfold Obligations.DecodedWords
  decide

/-- Settles O18: each class by its own characterisation, and the 256 bytes counted. -/
theorem classesPartitionBytes : Obligations.ClassesPartitionBytes := by
  refine ⟨fun b => ?classes, ?starts, ?stops, ?highs⟩
  case classes =>
    exact ⟨classify_eq_start_iff b, classify_eq_stop_iff b, classify_eq_nibble_iff b, classify_eq_high_iff b⟩
  all_goals decide +kernel

/-! ### The packet types -/

/-- Each field begins where the one before it ends, the first at `start` (R76: no padding). -/
def contiguousFrom (start : Nat) : List RecField → Bool
  | [] => true
  | f :: fs => f.offset == start && contiguousFrom (start + f.width) fs

/-- In a layout without padding a field begins after the widths before it. -/
theorem offset_of_contiguousFrom {start : Nat} {fs : List RecField} (h : contiguousFrom start fs = true) {k : Nat}
    {f : RecField} (hf : fs[k]? = some f) : f.offset = start + ((fs.take k).map RecField.width).sum := by
  induction fs generalizing start k with
  | nil => simp at hf
  | cons g gs ih =>
    simp only [contiguousFrom, Bool.and_eq_true, beq_iff_eq] at h
    obtain ⟨hoff, hrest⟩ := h
    cases k with
    | zero =>
      obtain rfl : g = f := by simpa using hf
      simpa using hoff
    | succ k =>
      rw [ih hrest (by simpa using hf)]
      simp [Nat.add_assoc]

theorem packetTypes_contiguous : ∀ p ∈ packetTypes, p.fields.all (contiguousFrom 0) = true := by decide

/-- A row that an identifier selects is one of the table's, with that identifier. -/
theorem exists_mem_of_packetType {id : Byte} (h : packetType id ≠ none) : ∃ p ∈ packetTypes, p.id = id := by
  obtain ⟨p, hp⟩ := Option.ne_none_iff_exists'.1 h
  exact ⟨p, List.mem_of_find?_eq_some hp, by simpa using List.find?_some hp⟩

theorem packetTypes_id : ∀ p ∈ packetTypes, p.id.toNat ∈ [1, 2, 3, 4, 5, 6, 100] := by decide

/-- Settles O59: the table is read off; offsets and frame lengths follow from the general lemmas. -/
theorem packetTypeSizes : Obligations.PacketTypeSizes := by
  refine ⟨by decide, by decide, ?identifiers, ?offsets, ?lengths⟩
  case identifiers =>
    intro id h
    obtain ⟨p, hp, rfl⟩ := exists_mem_of_packetType h
    exact packetTypes_id p hp
  case offsets =>
    intro p hp fs hfs k f hf
    have hcont : contiguousFrom 0 fs = true := by simpa [hfs] using packetTypes_contiguous p hp
    simpa using offset_of_contiguousFrom hcont hf
  case lengths => exact fun p _ r _ => length_serialize p.id r

end Sys2Proof.Proofs.Encoding

/-!
The wire frame of SER_FRAME (R73, R102 to R104): its body is the identifier, the record and two zero trailer bytes,
each split into its nibbles; where each nibble stands, and what class each byte has.
-/
namespace Sys2Proof.Machine

/-- The logical bytes of a wire body: identifier, record, and the trailer's two zero bytes (R102, R103). -/
def bodyBytes (id : Byte) (r : List Byte) : List Byte := id :: (r ++ [0, 0])

@[simp] theorem length_bodyBytes (id : Byte) (r : List Byte) : (bodyBytes id r).length = r.length + 3 := by
  simp [bodyBytes]

@[simp] theorem bodyBytes_zero (id : Byte) (r : List Byte) : (bodyBytes id r)[0]? = some id := rfl

theorem bodyBytes_record {id x : Byte} {r : List Byte} {k : Nat} (h : r[k]? = some x) :
    (bodyBytes id r)[k + 1]? = some x := by
  obtain ⟨hk, -⟩ := List.getElem?_eq_some_iff.1 h
  simpa [bodyBytes, List.getElem?_append_left hk] using h

theorem bodyBytes_trailer (id : Byte) (r : List Byte) {j : Nat} (h : j < 2) :
    (bodyBytes id r)[r.length + 1 + j]? = some 0 := by
  have hidx : r.length + 1 + j = r.length + j + 1 := by omega
  rw [bodyBytes, hidx, List.getElem?_cons_succ, List.getElem?_append_right (Nat.le_add_right _ _),
    Nat.add_sub_cancel_left]
  interval_cases j <;> rfl

theorem splitBytes_append (as bs : List Byte) : splitBytes (as ++ bs) = splitBytes as ++ splitBytes bs := by
  induction as with
  | nil => rfl
  | cons a as ih => simp [splitBytes, ih]

/-- The four zero trailer bytes are two zero bytes split (R103). -/
theorem serialize_eq (id : Byte) (r : List Byte) :
    serialize id r = Config.startByte :: (splitBytes (bodyBytes id r) ++ [Config.stopByte]) := by
  have htrailer : splitBytes [0, 0] = List.replicate Config.trailerNibbles 0 := by decide
  have hbody : splitBytes (bodyBytes id r) =
      splitBytes (id :: r) ++ List.replicate Config.trailerNibbles 0 := by
    rw [← htrailer, ← splitBytes_append]
    rfl
  rw [serialize, hbody, List.append_assoc]

/-- R73: the nibbles of body byte `k` stand at positions `1 + 2k` and `2 + 2k` of the frame. -/
theorem serialize_getElem? {id : Byte} {r : List Byte} {k : Nat} {b : Byte} (h : (bodyBytes id r)[k]? = some b) :
    (serialize id r)[1 + 2 * k]? = some (nibbleByte (highNibble b)) ∧
      (serialize id r)[2 + 2 * k]? = some (nibbleByte (lowNibble b)) := by
  obtain ⟨hk, -⟩ := List.getElem?_eq_some_iff.1 h
  obtain ⟨hhigh, hlow⟩ := splitBytes_getElem? (bodyBytes id r) k
  have hlen := length_splitBytes (bodyBytes id r)
  have h1 : 1 + 2 * k = 2 * k + 1 := by omega
  have h2 : 2 + 2 * k = 2 * k + 1 + 1 := by omega
  rw [h] at hhigh hlow
  rw [serialize_eq, h1, h2, List.getElem?_cons_succ, List.getElem?_cons_succ,
    List.getElem?_append_left (by omega), List.getElem?_append_left (by omega)]
  exact ⟨hhigh, hlow⟩

theorem serialize_getElem?_last (id : Byte) (r : List Byte) :
    (serialize id r)[2 * r.length + 7]? = some Config.stopByte := by
  have hlen : (splitBytes (bodyBytes id r)).length = 2 * r.length + 6 := by simp; omega
  rw [serialize_eq, List.getElem?_cons_succ, ← hlen, List.getElem?_concat_length]

theorem classify_mem_splitBytes {b : Byte} {bs : List Byte} (h : b ∈ splitBytes bs) :
    ∃ n, classify b = .nibble n := by
  obtain ⟨n, rfl⟩ := mem_splitBytes h
  exact ⟨n, classify_nibbleByte n⟩

theorem nibJoin_toNat (h l : Nibble) : (nibJoin h l).toNat = 16 * h.toNat + l.toNat := by
  rw [nibJoin_eq_append, BitVec.toNat_append, ← Nat.shiftLeft_add_eq_or_of_lt l.isLt, Nat.shiftLeft_eq,
    Nat.mul_comm]

theorem exec_nibSplit (b : Byte) (s : State) :
    exec (.nibSplit b) s = .next (s.answer (.bytePair (nibbleByte (highNibble b)) (nibbleByte (lowNibble b)))) :=
  rfl

theorem exec_nibJoin (h l : Nibble) (s : State) :
    exec (.nibJoin h l) s = .next (s.answer (.byte (nibJoin h l))) := rfl

theorem exec_serFrame (id : Byte) (r : List Byte) (s : State) :
    exec (.serFrame id r) s = .next (s.transmit (serialize id r)) := rfl

end Sys2Proof.Machine

/-!
A run of wire bytes on the receive port: one step per byte (R130) is a fold of BYTE_IN, and what such a fold does
to a parser that waits, that collects a frame's body, or that streams.
-/
namespace Sys2Proof.Machine

/-! ### One step per byte -/

/-- The state after BYTE_IN of each byte in order. -/
def State.receiveAll (s : State) (bs : List Byte) : State := bs.foldl State.byteIn s

theorem State.receiveAll_nil (s : State) : s.receiveAll [] = s := rfl

theorem State.receiveAll_cons (s : State) (b : Byte) (bs : List Byte) :
    s.receiveAll (b :: bs) = (s.byteIn b).receiveAll bs := rfl

theorem State.receiveAll_append (s : State) (as bs : List Byte) :
    s.receiveAll (as ++ bs) = (s.receiveAll as).receiveAll bs := List.foldl_append

/-! No operation of the receive port reads or writes the inputs still to come. -/

theorem State.consume_setInq (s : State) (q : List Input) (id : Byte) (p : List Byte) :
    ({ s with inq := q } : State).consume id p = { s.consume id p with inq := q } := by
  unfold State.consume
  split_ifs <;> rfl

theorem State.route_setInq (s : State) (q : List Input) (id : Byte) (len : Nat) (p : List Byte) :
    ({ s with inq := q } : State).route id len p = { s.route id len p with inq := q } := by
  obtain ⟨hreg, h⟩ | ⟨hinvalid, h⟩ | ⟨hvalid, hsize, h⟩ := s.route_cases id len p <;> rw [h]
  · rw [State.route_registered (s := { s with inq := q }) p hreg]
    exact State.consume_setInq (s.emit (.dispatch id p)) q id p
  · exact State.route_unregistered (s := { s with inq := q }) len p hinvalid
  · exact State.route_mismatch (s := { s with inq := q }) p hvalid hsize

theorem State.processFrame_setInq (s : State) (q : List Input) (n : Nat) :
    ({ s with inq := q } : State).processFrame n = { s.processFrame n with inq := q } := by
  unfold State.processFrame
  split_ifs
  · rfl
  · exact State.route_setInq s q _ _ _

theorem State.wfStop_setInq (s : State) (q : List Input) :
    ({ s with inq := q } : State).wfStop = { s.wfStop with inq := q } := by
  by_cases hstrm : s.strm = true
  · rw [State.wfStop_streaming hstrm, State.wfStop_streaming (s := { s with inq := q }) hstrm]
    rfl
  · have hstrm : s.strm = false := by simpa using hstrm
    rw [State.wfStop_buffered hstrm, State.wfStop_buffered (s := { s with inq := q }) hstrm]
    exact congrArg (fun t : State => { t with st := .ws, strm := false })
      (State.processFrame_setInq (s.emit .frameEnd) q s.cnt)

theorem State.byteIn_setInq (s : State) (q : List Input) (b : Byte) :
    ({ s with inq := q } : State).byteIn b = { s.byteIn b with inq := q } := by
  rw [State.byteIn_eq, State.byteIn_eq, State.view_inq]
  cases selectRx s.view b with
  | wfStop => exact s.wfStop_setInq q
  | wsStart | wsIgnore | wfDupStart | wfFramingAbort | wfNibAppend | wfIdPair | wfStreamEnter | wfStreamByte
  | wfOverflowAbort => rfl

theorem State.receiveAll_setInq (s : State) (q : List Input) (bs : List Byte) :
    ({ s with inq := q } : State).receiveAll bs = { s.receiveAll bs with inq := q } := by
  induction bs generalizing s with
  | nil => rfl
  | cons b bs ih => rw [State.receiveAll_cons, State.byteIn_setInq, ih, State.receiveAll_cons]

/-- R130: a step whose input is a wire byte is BYTE_IN; in a state of the invariant it completes. -/
theorem step_rxByte {s : State} {b : Byte} {q : List Input} (h : s.Inv) (hq : s.inq = .txn (.rxByte b) :: q) :
    step s = .next { s.byteIn b with inq := q } := by
  obtain ⟨-, hcnt, -⟩ := h
  have hadm : (selectRx s.view b).toInstr.admitted s.view = true := selectRx_admitted b hcnt
  have hexec : exec (selectRx s.view b).toInstr { s with inq := q } =
      .next (({ s with inq := q } : State).byteIn b) := by
    rw [exec_toInstr]
    exact whenAdmitted_eq_next hadm
  rw [step_txn hq, runTxn, State.view_inq, decode_rxByte, hexec, State.byteIn_setInq]

/-- As many steps as there are wire bytes at the head of the queue take them all (R8, R81). -/
theorem runSteps_rxInputs {s : State} {bs : List Byte} {q : List Input} (h : s.Inv)
    (hq : s.inq = rxInputs bs ++ q) : runSteps bs.length s = .next { s.receiveAll bs with inq := q } := by
  induction bs generalizing s with
  | nil =>
    obtain rfl : s.inq = q := hq
    rfl
  | cons b bs ih =>
    have hstep := step_rxByte (q := rxInputs bs ++ q) h hq
    have hinv := (State.byteIn_inv b h).congr (t := { s.byteIn b with inq := rxInputs bs ++ q }) rfl
    rw [List.length_cons, runSteps_succ hstep, ih hinv rfl, State.receiveAll_setInq, State.receiveAll_cons]

/-! ### One byte, by the operation it selects -/

/-- BYTE_IN of an operation's wire byte, where the operation's rule admits it (R83). -/
theorem State.byteIn_of_admitted {s : State} {op : RxOp} (hcap : 8 ≤ s.params.bufCap)
    (hadm : op.toInstr.admitted s.view = true) : s.byteIn op.wireByte = s.receive op := by
  rw [State.byteIn_eq, selectRx_wireByte hcap hadm]

/-- R132, R145(a): in `WS` nothing but a start byte has an effect. -/
theorem State.byteIn_ignored {s : State} {b : Byte} (hst : s.st = .ws) (hb : b ≠ Config.startByte) :
    s.byteIn b = s := by
  rw [State.byteIn_eq, selectRx_ws hst, if_neg hb]
  rfl

theorem State.receiveAll_ignored {s : State} {bs : List Byte} (hst : s.st = .ws)
    (hbs : ∀ b ∈ bs, b ≠ Config.startByte) : s.receiveAll bs = s := by
  induction bs with
  | nil => rfl
  | cons b bs ih =>
    obtain ⟨hb, hbs⟩ := List.forall_mem_cons.1 hbs
    rw [State.receiveAll_cons, State.byteIn_ignored hst hb, ih hbs]

theorem State.byteIn_stop {s : State} (hst : s.st = .wf) : s.byteIn Config.stopByte = s.wfStop := by
  rw [State.byteIn_eq, selectRx_stop hst]
  rfl

/-- R131. -/
theorem State.byteIn_start_of_ws {s : State} (hst : s.st = .ws) : s.byteIn Config.startByte = s.wsStart := by
  rw [State.byteIn_eq, selectRx_ws hst, if_pos rfl]
  rfl

/-- R134. -/
theorem State.byteIn_start_of_cnt_eq_zero {s : State} (hcap : 8 ≤ s.params.bufCap) (hst : s.st = .wf)
    (h0 : s.cnt = 0) : s.byteIn Config.startByte = s :=
  State.byteIn_of_admitted (op := .wfDupStart) hcap ((Instr.admitted_wfDupStart _).2 ⟨hst, h0⟩)

/-- R135, the form for a start byte. -/
theorem State.byteIn_start_of_cnt_ne_zero {s : State} (hcap : 8 ≤ s.params.bufCap) (hst : s.st = .wf)
    (h0 : s.cnt ≠ 0) : s.byteIn Config.startByte = s.abort (.framing Config.startByte) :=
  State.byteIn_of_admitted (op := .wfFramingAbort Config.startByte) hcap
    ((Instr.admitted_wfFramingAbort _ _).2 ⟨hst, .inr ⟨rfl, h0⟩⟩)

/-- R136. -/
theorem State.byteIn_nibAppend {s : State} (n : Nibble) (hcap : 8 ≤ s.params.bufCap) (hst : s.st = .wf)
    (hne : s.cnt ≠ 1) (hlt : s.cnt < s.params.bufCap) : s.byteIn (nibbleByte n) = s.bufPush n :=
  State.byteIn_of_admitted (op := .wfNibAppend n) hcap ((Instr.admitted_wfNibAppend _ n).2 ⟨hst, hne, hlt⟩)

/-- R137. -/
theorem State.byteIn_idPair {s : State} {n : Nibble} (hcap : 8 ≤ s.params.bufCap) (hst : s.st = .wf)
    (h1 : s.cnt = 1) (hstrm : s.strm = false) (hid : nibJoin (s.bufRead 0) n ≠ Config.streamId) :
    s.byteIn (nibbleByte n) = s.bufPush n :=
  State.byteIn_of_admitted (op := .wfIdPair n) hcap ((Instr.admitted_wfIdPair _ n).2 ⟨hst, h1, hstrm, hid⟩)

/-- R139. -/
theorem State.byteIn_streamByte {s : State} (n : Nibble) (hcap : 8 ≤ s.params.bufCap) (hst : s.st = .wf)
    (h1 : s.cnt = 1) (hstrm : s.strm = true) : s.byteIn (nibbleByte n) = s.wfStreamByte n :=
  State.byteIn_of_admitted (op := .wfStreamByte n) hcap ((Instr.admitted_wfStreamByte _ n).2 ⟨hst, h1, hstrm⟩)

/-- A frame is open with no nibble pending, in or out of streaming sub-mode. -/
structure State.AtBoundary (s : State) (streaming : Bool) : Prop where
  st : s.st = .wf
  strm : s.strm = streaming
  cnt : s.cnt = 0

/-- The parser waits, with this trace. -/
structure State.WaitsWith (s : State) (trace : List Event) : Prop where
  st : s.st = .ws
  strm : s.strm = false
  ev : s.ev = trace

theorem State.wsStart_atBoundary (s : State) : s.wsStart.AtBoundary false := ⟨rfl, rfl, rfl⟩

/-! ### Nibbles and the buffer -/

/-- The nibbles of a list of bytes, high first (R53). -/
def nibbles : List Byte → List Nibble
  | [] => []
  | b :: bs => highNibble b :: lowNibble b :: nibbles bs

@[simp] theorem length_nibbles (bs : List Byte) : (nibbles bs).length = 2 * bs.length := by
  induction bs with
  | nil => rfl
  | cons b bs ih => simp only [nibbles, List.length_cons, ih]; omega

/-- The wire bytes of a list of bytes carry its nibbles (R53, R71). -/
theorem splitBytes_eq_map_nibbles (bs : List Byte) : splitBytes bs = (nibbles bs).map nibbleByte := by
  induction bs with
  | nil => rfl
  | cons b bs ih => simp [splitBytes, nibSplit, nibbles, ih]

/-- The nibbles of byte `k` stand at `2k` and `2k + 1`. -/
theorem nibbles_getElem? {bs : List Byte} {k : Nat} {b : Byte} (h : bs[k]? = some b) :
    (nibbles bs)[2 * k]? = some (highNibble b) ∧ (nibbles bs)[2 * k + 1]? = some (lowNibble b) := by
  induction bs generalizing k with
  | nil => simp at h
  | cons x xs ih =>
    cases k with
    | zero =>
      obtain rfl : x = b := by simpa using h
      exact ⟨rfl, rfl⟩
    | succ k => exact ih (by simpa using h)

/-- The state after storing each nibble in order (R51). -/
def State.bufPushAll (s : State) (ns : List Nibble) : State := ns.foldl State.bufPush s

@[simp] theorem State.bufPushAll_nil (s : State) : s.bufPushAll [] = s := rfl

@[simp] theorem State.bufPushAll_cons (s : State) (n : Nibble) (ns : List Nibble) :
    s.bufPushAll (n :: ns) = (s.bufPush n).bufPushAll ns := rfl

/-- Storing writes the buffer and the counter only. -/
theorem State.bufPushAll_eq (s : State) (ns : List Nibble) :
    s.bufPushAll ns = { s with buf := (s.bufPushAll ns).buf, cnt := s.cnt + ns.length } := by
  induction ns generalizing s with
  | nil => rfl
  | cons n ns ih =>
    rw [State.bufPushAll_cons, ih (s.bufPush n)]
    simp [State.bufPush, Nat.add_assoc, Nat.add_comm]

section
variable (s : State) (ns : List Nibble)

@[simp] theorem State.bufPushAll_cnt : (s.bufPushAll ns).cnt = s.cnt + ns.length := by
  rw [s.bufPushAll_eq ns]
@[simp] theorem State.bufPushAll_st : (s.bufPushAll ns).st = s.st := by rw [s.bufPushAll_eq ns]
@[simp] theorem State.bufPushAll_strm : (s.bufPushAll ns).strm = s.strm := by
  rw [s.bufPushAll_eq ns]
@[simp] theorem State.bufPushAll_reg : (s.bufPushAll ns).reg = s.reg := by rw [s.bufPushAll_eq ns]
@[simp] theorem State.bufPushAll_ev : (s.bufPushAll ns).ev = s.ev := by rw [s.bufPushAll_eq ns]

end

theorem State.bufPushAll_emit (s : State) (e : Event) (ns : List Nibble) :
    (s.bufPushAll ns).emit e = (s.emit e).bufPushAll ns := by
  induction ns generalizing s with
  | nil => rfl
  | cons n ns ih => exact ih (s.bufPush n)

theorem State.bufRead_bufPushAll_of_lt {s : State} (ns : List Nibble) {i : Nat} (h : i < s.cnt) :
    (s.bufPushAll ns).bufRead i = s.bufRead i := by
  induction ns generalizing s with
  | nil => rfl
  | cons n ns ih =>
    rw [State.bufPushAll_cons, ih (by rw [State.bufPush_cnt]; omega), s.bufRead_bufPush_of_ne n h.ne]

/-- Nibble `i` of those stored is read back behind the entries that were there. -/
theorem State.bufRead_bufPushAll {s : State} {ns : List Nibble} {i : Nat} {n : Nibble} (hi : ns[i]? = some n)
    (hlen : s.cnt + ns.length ≤ s.buf.length) : (s.bufPushAll ns).bufRead (s.cnt + i) = n := by
  induction ns generalizing s i with
  | nil => simp at hi
  | cons m ms ih =>
    rw [List.length_cons] at hlen
    cases i with
    | zero =>
      obtain rfl : m = n := by simpa using hi
      rw [State.bufPushAll_cons, Nat.add_zero, State.bufRead_bufPushAll_of_lt ms (by simp),
        s.bufRead_bufPush_self m (by omega)]
    | succ i =>
      have hnext : s.cnt + (i + 1) = (s.bufPush m).cnt + i := by rw [State.bufPush_cnt]; omega
      rw [State.bufPushAll_cons, hnext]
      exact ih (by simpa using hi) (by simp only [State.bufPush_cnt, State.bufPush_buf, List.length_set]; omega)

/-- R53: byte `k` of those stored as nibbles is read back as a pair. -/
theorem State.pairAt_bufPushAll_nibbles {s : State} {bs : List Byte} {k : Nat} {b : Byte} (hk : bs[k]? = some b)
    (h0 : s.cnt = 0) (hlen : 2 * bs.length ≤ s.buf.length) : (s.bufPushAll (nibbles bs)).pairAt (2 * k) = b := by
  obtain ⟨hhigh, hlow⟩ := nibbles_getElem? hk
  have hfits : s.cnt + (nibbles bs).length ≤ s.buf.length := by rw [length_nibbles]; omega
  have hread {i : Nat} {n : Nibble} (hi : (nibbles bs)[i]? = some n) :
      (s.bufPushAll (nibbles bs)).bufRead i = n := by
    simpa only [h0, Nat.zero_add] using State.bufRead_bufPushAll hi hfits
  rw [State.pairAt, hread hhigh, hread hlow, nibJoin_high_low]

/-- R136: at a pair boundary, in or out of streaming sub-mode, a nibble becomes entry 0. -/
theorem State.byteIn_nibble_atBoundary {s : State} {streaming : Bool} (n : Nibble) (hs : s.StorageInv)
    (h : s.AtBoundary streaming) :
    s.byteIn (nibbleByte n) = s.bufPush n ∧ (s.bufPush n).cnt = 1 ∧ (s.bufPush n).bufRead 0 = n := by
  obtain ⟨hcap, hbuf⟩ := hs
  obtain ⟨hst, -, h0⟩ := h
  have hcap : 8 ≤ s.params.bufCap := hcap
  refine ⟨State.byteIn_nibAppend n hcap hst (by omega) (by omega), by rw [State.bufPush_cnt, h0], ?_⟩
  simpa only [h0] using s.bufRead_bufPush_self n (by omega)

/-! ### Collecting a body -/

/-- R136: behind the identifier every nibble that fits is stored. -/
theorem State.receiveAll_nibbles {s : State} {ns : List Nibble} (hcap : 8 ≤ s.params.bufCap) (hst : s.st = .wf)
    (h2 : 2 ≤ s.cnt) (hfits : s.cnt + ns.length ≤ s.params.bufCap) :
    s.receiveAll (ns.map nibbleByte) = s.bufPushAll ns := by
  induction ns generalizing s with
  | nil => rfl
  | cons n ns ih =>
    rw [List.length_cons] at hfits
    rw [List.map_cons, State.receiveAll_cons, State.byteIn_nibAppend n hcap hst (by omega) (by omega),
      State.bufPushAll_cons]
    exact ih hcap hst (by rw [State.bufPush_cnt]; omega) (by rw [State.bufPush_cnt, State.bufPush_params]; omega)

/-- R136, R137: from a frame just opened, an identifier other than 100 and what follows it are stored. -/
theorem State.receiveAll_body {s : State} {id : Byte} {bs : List Byte} (hs : s.StorageInv)
    (hopen : s.AtBoundary false) (hid : id ≠ Config.streamId) (hfits : 2 * (id :: bs).length ≤ s.params.bufCap) :
    s.receiveAll (splitBytes (id :: bs)) = s.bufPushAll (nibbles (id :: bs)) := by
  obtain ⟨hfirst, h1, hpushed⟩ := State.byteIn_nibble_atBoundary (highNibble id) hs hopen
  have hcap : 8 ≤ s.params.bufCap := hs.1
  have hsecond : (s.bufPush (highNibble id)).byteIn (nibbleByte (lowNibble id)) =
      (s.bufPush (highNibble id)).bufPush (lowNibble id) :=
    State.byteIn_idPair hcap hopen.st h1 hopen.strm (by rwa [hpushed, nibJoin_high_low])
  rw [List.length_cons] at hfits
  rw [splitBytes_eq_map_nibbles, nibbles, List.map_cons, List.map_cons, State.receiveAll_cons, hfirst,
    State.receiveAll_cons, hsecond, State.bufPushAll_cons, State.bufPushAll_cons]
  refine State.receiveAll_nibbles hcap hopen.st ?_ ?_
  · rw [State.bufPush_cnt, h1]
  · rw [State.bufPush_cnt, h1, length_nibbles, State.bufPush_params, State.bufPush_params]
    omega

/-! ### Streaming -/

/-- R136, R139: in streaming sub-mode the two wire bytes of a byte give one event and return to the boundary. -/
theorem State.receiveAll_streamPair {s : State} (b : Byte) (hs : s.StorageInv) (h : s.AtBoundary true) :
    s.receiveAll [nibbleByte (highNibble b), nibbleByte (lowNibble b)] =
        (s.bufPush (highNibble b)).wfStreamByte (lowNibble b) ∧
      ((s.bufPush (highNibble b)).wfStreamByte (lowNibble b)).ev = s.ev ++ [.streamByte b] := by
  obtain ⟨hfirst, h1, hpushed⟩ := State.byteIn_nibble_atBoundary (highNibble b) hs h
  have hcap : 8 ≤ s.params.bufCap := hs.1
  have hlen : 1 < (s.bufPush (highNibble b)).buf.length := by
    rw [State.bufPush_buf, List.length_set, hs.2]
    omega
  have hsecond : (s.bufPush (highNibble b)).byteIn (nibbleByte (lowNibble b)) =
      (s.bufPush (highNibble b)).wfStreamByte (lowNibble b) :=
    State.byteIn_streamByte (lowNibble b) hcap h.st h1 h.strm
  constructor
  · rw [State.receiveAll_cons, hfirst, State.receiveAll_cons, hsecond, State.receiveAll_nil]
  · rw [State.wfStreamByte_ev, State.pairAt_bufPush_of_cnt_eq_one _ h1 hlen, hpushed, nibJoin_high_low,
      State.bufPush_ev]

/-- R148: each pair is delivered as it comes, whatever its value and however many. -/
theorem State.receiveAll_streaming {s : State} (bs : List Byte) (hs : s.StorageInv) (h : s.AtBoundary true) :
    (s.receiveAll (splitBytes bs)).AtBoundary true ∧
      (s.receiveAll (splitBytes bs)).ev = s.ev ++ bs.map Event.streamByte := by
  induction bs generalizing s with
  | nil => exact ⟨h, (List.append_nil s.ev).symm⟩
  | cons b bs ih =>
    obtain ⟨hpair, hev⟩ := State.receiveAll_streamPair b hs h
    obtain ⟨hst, hstrm, -⟩ := h
    have hnext := ih (State.bufPush_storage (lowNibble b) (State.bufPush_storage (highNibble b) hs))
      (s := (s.bufPush (highNibble b)).wfStreamByte (lowNibble b)) ⟨hst, hstrm, rfl⟩
    have hsplit : splitBytes (b :: bs) =
        [nibbleByte (highNibble b), nibbleByte (lowNibble b)] ++ splitBytes bs := rfl
    rw [hsplit, State.receiveAll_append, hpair, List.map_cons, List.append_cons, ← hev]
    exact hnext

/-! ### A frame whose body is stored -/

/-- The state with a frame's whole body in the buffer. -/
def State.storeBody (s : State) (id : Byte) (r : List Byte) : State := s.bufPushAll (nibbles (bodyBytes id r))

section
variable (s : State) (id : Byte) (r : List Byte)

theorem State.storeBody_st : (s.storeBody id r).st = s.st := s.bufPushAll_st _
theorem State.storeBody_strm : (s.storeBody id r).strm = s.strm := s.bufPushAll_strm _
theorem State.storeBody_reg : (s.storeBody id r).reg = s.reg := s.bufPushAll_reg _
theorem State.storeBody_ev : (s.storeBody id r).ev = s.ev := s.bufPushAll_ev _

/-- `FrameEnd` does not touch the buffer, so that it may come before or after the body is stored. -/
theorem State.emit_storeBody (e : Event) : (s.storeBody id r).emit e = (s.emit e).storeBody id r := by
  rw [State.storeBody, State.storeBody, s.bufPushAll_emit]

end

theorem State.storeBody_cnt {s : State} (id : Byte) (r : List Byte) (h0 : s.cnt = 0) :
    (s.storeBody id r).cnt = 2 * r.length + 6 := by
  rw [State.storeBody, State.bufPushAll_cnt, h0, length_nibbles, length_bodyBytes]
  omega

/-- R142, R143: PROCESS_FRAME of a stored body hands over the identifier and the record. -/
theorem State.processFrame_storeBody {s : State} {r : List Byte} (id : Byte) (h0 : s.cnt = 0) (hlen : 1 ≤ r.length)
    (hbuf : 2 * r.length + 6 ≤ s.buf.length) :
    (s.storeBody id r).processFrame (2 * r.length + 6) = (s.storeBody id r).route id r.length r := by
  have hpair {k : Nat} {b : Byte} (hk : (bodyBytes id r)[k]? = some b) : (s.storeBody id r).pairAt (2 * k) = b :=
    State.pairAt_bufPushAll_nibbles hk h0 (by rw [length_bodyBytes]; omega)
  have hid : (s.storeBody id r).pairAt 0 = id := hpair (k := 0) (bodyBytes_zero id r)
  have hsize : (2 * r.length + 6 - 6) / 2 = r.length := by omega
  have hpayload : (List.range r.length).map (fun k => (s.storeBody id r).pairAt (2 + 2 * k)) = r := by
    refine List.ext_getElem (by simp) fun k _ hk => ?_
    have hpos : 2 + 2 * k = 2 * (k + 1) := by omega
    rw [List.getElem_map, List.getElem_range, hpos]
    exact hpair (bodyBytes_record (List.getElem?_eq_getElem hk))
  obtain ⟨hbad, -⟩ | ⟨-, -, hframe⟩ := (s.storeBody id r).processFrame_cases (2 * r.length + 6)
  · omega
  · rw [hframe, hid, hsize, hpayload]

/-- R161: of a type registered with the record's size, the hand-over gives the event. -/
theorem State.route_ev_of_registered {s : State} {id : Byte} {len : Nat} (p : List Byte)
    (hreg : s.regRead id = ⟨true, len⟩) : (s.route id len p).ev = s.ev ++ [.dispatch id p] := by
  rw [State.route_registered p hreg, State.consume_eq]
  rfl

/-- R133: closing a frame whose body is stored and whose type is registered with its record's size. -/
theorem State.wfStop_storeBody_waitsWith {s : State} {id : Byte} {r : List Byte} (hopen : s.AtBoundary false)
    (hlen : 1 ≤ r.length) (hbuf : 2 * r.length + 6 ≤ s.buf.length) (hreg : s.regRead id = ⟨true, r.length⟩) :
    (s.storeBody id r).wfStop.WaitsWith (s.ev ++ [.frameEnd, .dispatch id r]) := by
  obtain ⟨-, hstrm, h0⟩ := hopen
  have hstored : ((s.emit .frameEnd).storeBody id r).regRead id = ⟨true, r.length⟩ := by
    rw [← hreg]
    exact State.regRead_congr (State.storeBody_reg _ id r) id
  rw [State.wfStop_buffered (by rw [State.storeBody_strm, hstrm]), State.storeBody_cnt id r h0,
    State.emit_storeBody, State.processFrame_storeBody (s := s.emit .frameEnd) id h0 hlen hbuf]
  refine ⟨rfl, rfl, ?_⟩
  calc (((s.emit .frameEnd).storeBody id r).route id r.length r).ev
    _ = (s.ev ++ [.frameEnd]) ++ [.dispatch id r] := by
      rw [State.route_ev_of_registered r hstored, State.storeBody_ev, State.emit_ev]
    _ = s.ev ++ [.frameEnd, .dispatch id r] := List.append_assoc ..

end Sys2Proof.Machine

/-!
The statements about U1: NIB_SPLIT, NIB_JOIN, SER_FRAME (R100 to R104), and the frame round trip (R105).
-/
namespace Sys2Proof.Proofs.Serializer

open Sys2Proof Sys2Proof.Machine

/-- Settles O13: both results are wire bytes of nibbles, and such a byte is in class NIBBLE (R72). -/
theorem nibSplitResult : Obligations.NibSplitResult := fun b s =>
  ⟨_, _, exec_nibSplit b s, rfl, rfl, classify_nibbleByte _, classify_nibbleByte _⟩

/-- Settles O14: NIB_JOIN is concatenation, and concatenating the two halves of a byte gives it back. -/
theorem nibJoinResult : Obligations.NibJoinResult := by
  refine ⟨fun h l s => ⟨_, exec_nibJoin h l s, nibJoin_toNat h l⟩, fun b s => ⟨_, _, exec_nibSplit b s, ?_⟩⟩
  have hhigh : (nibbleByte (highNibble b)).extractLsb' 0 4 = highNibble b := lowNibble_nibbleByte _
  have hlow : (nibbleByte (lowNibble b)).extractLsb' 0 4 = lowNibble b := lowNibble_nibbleByte _
  rw [hhigh, hlow, exec_nibJoin, nibJoin_high_low]
  rfl

/-- Settles O15: the positions of R73 are those of the body bytes: identifier, record, two zero bytes. -/
theorem serFrameBytes : Obligations.SerFrameBytes := by
  intro id r s
  obtain ⟨hidHigh, hidLow⟩ := serialize_getElem? (bodyBytes_zero id r)
  refine ⟨serialize id r, exec_serFrame id r s, length_serialize id r, rfl, hidHigh, hidLow, ?record, ?trailer,
    serialize_getElem?_last id r⟩
  case record =>
    intro k x hx
    obtain ⟨hhigh, hlow⟩ := serialize_getElem? (bodyBytes_record (id := id) hx)
    have h3 : 3 + 2 * k = 1 + 2 * (k + 1) := by omega
    have h4 : 4 + 2 * k = 2 + 2 * (k + 1) := by omega
    rw [h3, h4]
    exact ⟨hhigh, hlow⟩
  case trailer =>
    intro j hj
    obtain ⟨hhigh, hlow⟩ := serialize_getElem? (bodyBytes_trailer id r (j := j / 2) (by omega))
    obtain heven | hodd := Nat.mod_two_eq_zero_or_one j
    · have hpos : 2 * r.length + 3 + j = 1 + 2 * (r.length + 1 + j / 2) := by omega
      rw [hpos]
      exact hhigh
    · have hpos : 2 * r.length + 3 + j = 2 + 2 * (r.length + 1 + j / 2) := by omega
      rw [hpos]
      exact hlow

/-- Settles O16: the body is the split body bytes, whose number of nibbles is twice that of the bytes. -/
theorem serFrameShape : Obligations.SerFrameShape := by
  intro id r s
  have hlen : (splitBytes (bodyBytes id r)).length = 2 * r.length + 6 := by
    rw [length_splitBytes, length_bodyBytes]
    omega
  refine ⟨splitBytes (bodyBytes id r), ?_, fun _ => classify_mem_splitBytes, hlen, by omega, by omega⟩
  rw [exec_serFrame, serialize_eq]
  rfl

/-! ### The frame round trip -/

/-- R105 in `WS` and in `WF` with nothing pending and no streaming, from the opened frame on. -/
theorem receiveAll_frame_of_open {s : State} {id : Byte} {r : List Byte} (hs : s.StorageInv)
    (hopen : s.AtBoundary false) (hid : id ≠ Config.streamId) (hlen : 1 ≤ r.length)
    (hmax : r.length ≤ s.params.pmax) (hreg : s.regRead id = ⟨true, r.length⟩) :
    (s.receiveAll (splitBytes (bodyBytes id r) ++ [Config.stopByte])).WaitsWith
      (s.ev ++ [.frameEnd, .dispatch id r]) := by
  have ⟨hcap, hbuf⟩ := hs
  have hfits : 2 * r.length + 6 ≤ s.params.bufCap := by
    simp only [Params.pmax] at hmax
    omega
  have hbytes : 2 * (bodyBytes id r).length ≤ s.params.bufCap := by
    rw [length_bodyBytes]
    omega
  have hbody : s.receiveAll (splitBytes (bodyBytes id r)) = s.storeBody id r :=
    State.receiveAll_body hs hopen hid hbytes
  have hst : (s.storeBody id r).st = .wf := by rw [State.storeBody_st, hopen.st]
  rw [State.receiveAll_append, hbody, State.receiveAll_cons, State.receiveAll_nil, State.byteIn_stop hst]
  exact State.wfStop_storeBody_waitsWith hopen hlen (by omega) hreg

/-- R105's last exception: in streaming sub-mode at a pair boundary the body is streamed. -/
theorem receiveAll_frame_of_streaming {s : State} (bs : List Byte) (hs : s.StorageInv) (h : s.AtBoundary true) :
    (s.receiveAll (splitBytes bs ++ [Config.stopByte])).WaitsWith
      (s.ev ++ (bs.map Event.streamByte ++ [.frameEnd])) := by
  obtain ⟨⟨hst, hstrm, -⟩, hev⟩ := State.receiveAll_streaming bs hs h
  rw [State.receiveAll_append, State.receiveAll_cons, State.receiveAll_nil, State.byteIn_stop hst,
    State.wfStop_streaming hstrm]
  exact ⟨rfl, rfl, by simp [hev]⟩

/-- Behind its start byte a serialized frame has no other (R104), so that a parser in `WS` discards it. -/
theorem receiveAll_frame_of_ws {s : State} (bs : List Byte) (hst : s.st = .ws) :
    s.receiveAll (splitBytes bs ++ [Config.stopByte]) = s := by
  refine State.receiveAll_ignored hst fun b hb hstart => ?_
  obtain hb | hb := List.mem_append.1 hb
  · obtain ⟨n, hn⟩ := classify_mem_splitBytes hb
    rw [hstart, classify_startByte] at hn
    cases hn
  · rw [List.mem_singleton.1 hb] at hstart
    exact absurd hstart (by decide)

/-- Settles O55: one case for each starting state, by what the frame's start byte does there. -/
theorem frameRoundTrip : Obligations.FrameRoundTrip := by
  intro s id r q hinv hid hlen hmax hreg hq
  have ⟨hs, _⟩ := hinv
  have hcap : 8 ≤ s.params.bufCap := hs.1
  have hrun := runSteps_rxInputs hinv hq
  rw [length_serialize, serialize_eq, State.receiveAll_cons] at hrun
  refine ⟨_, hrun, rfl, ?_⟩
  cases hst : s.st with
  | ws =>
    rw [State.byteIn_start_of_ws hst]
    obtain ⟨hws, hstrm, hev⟩ := receiveAll_frame_of_open (State.wsStart_storage hs) s.wsStart_atBoundary hid hlen
      hmax hreg
    exact ⟨hws, hstrm, fun _ => hev, nofun, nofun⟩
  | wf =>
    by_cases h0 : s.cnt = 0
    · rw [State.byteIn_start_of_cnt_eq_zero hcap hst h0]
      cases hstrm : s.strm with
      | false =>
        obtain ⟨hws, hclosed, hev⟩ := receiveAll_frame_of_open hs ⟨hst, hstrm, h0⟩ hid hlen hmax hreg
        exact ⟨hws, hclosed, fun _ => hev, fun _ hne => absurd h0 hne, nofun⟩
      | true =>
        obtain ⟨hws, hclosed, hev⟩ := receiveAll_frame_of_streaming (bodyBytes id r) hs ⟨hst, hstrm, h0⟩
        exact ⟨hws, hclosed, by simp, fun _ hne => absurd h0 hne, fun _ _ _ => hev⟩
    · rw [State.byteIn_start_of_cnt_ne_zero hcap hst h0, receiveAll_frame_of_ws _ (State.abort_st s _)]
      exact ⟨rfl, rfl, by simp [h0], fun _ _ => rfl, fun _ hzero => absurd hzero h0⟩

end Sys2Proof.Proofs.Serializer

/-!
The frame sentinel detector (R120, R121): what CLASSIFY and DUP_QUAL return, and that they return it and do nothing
else.
-/
namespace Sys2Proof.Machine

/-! Each operation of the detector only answers; the class is left as the classifier's value for the byte. -/

theorem exec_classifyStart (s : State) :
    exec .classifyStart s = .next (s.answer (.cls (classify Config.startByte))) := rfl

theorem exec_classifyStop (s : State) :
    exec .classifyStop s = .next (s.answer (.cls (classify Config.stopByte))) := rfl

theorem exec_classifyNibble (n : Nibble) (s : State) :
    exec (.classifyNibble n) s = .next (s.answer (.cls (classify (nibbleByte n)))) := rfl

theorem exec_classifyHigh (b : Byte) (s : State) :
    exec (.classifyHigh b) s = .next (s.answer (.cls (classify b))) := rfl

theorem exec_dupQual (b : Byte) (cnt : Nat) (s : State) :
    exec (.dupQual b cnt) s = .next (s.answer (.bit (dupQual b cnt))) := rfl

/-- R121: the returned bit is the truth value of the qualifier's two conditions. -/
theorem dupQual_eq_decide (b : Byte) (cnt : Nat) :
    dupQual b cnt = decide (b = Config.startByte ∧ cnt = 0) := by
  rw [Bool.eq_iff_iff, dupQual_eq_true_iff, decide_eq_true_iff]

end Sys2Proof.Machine

namespace Sys2Proof.Proofs.Detector

open Sys2Proof Sys2Proof.Machine

/-- Settles O17: by row, each byte's class from its characterisation (R72). -/
theorem classifyResults : Obligations.ClassifyResults := by
  intro s
  refine ⟨?start, ?stop, ?nibble, ?high⟩
  case start =>
    rw [exec_classifyStart, classify_startByte]
    rfl
  case stop =>
    rw [exec_classifyStop, classify_stopByte]
    rfl
  case nibble =>
    intro n
    rw [exec_classifyNibble, classify_nibbleByte]
    rfl
  case high =>
    intro b hhigh hstart hstop
    have hclass : classify b = .high := (classify_eq_high_iff b).2 ⟨hhigh, hstart, hstop⟩
    rw [exec_classifyHigh, hclass]
    rfl

/-- Settles O19: the returned bit decides the qualifier's two conditions. -/
theorem dupQualResult : Obligations.DupQualResult := by
  intro b cnt s
  rw [exec_dupQual, dupQual_eq_decide]
  rfl

end Sys2Proof.Proofs.Detector

/-!
The receive operations as meanings of `exec`, what each has written where its rule admits it, and the events a step
appends (R130 to R144, R146, R148).
-/
namespace Sys2Proof

/-- R141: PROCESS_FRAME is done inside WF_STOP only, on the nibbles counted. -/
@[simp] theorem Instr.admitted_processFrame (v : ParserView) (n : Nat) :
    (Instr.processFrame n).admitted v = true ↔ v.st = .wf ∧ v.strm = false ∧ n = v.cnt := by
  simp [Instr.admitted, and_assoc]

end Sys2Proof

namespace Sys2Proof.Machine

/-! ### The meanings, where admitted -/

theorem exec_of_admitted {op : RxOp} {s : State} (h : op.toInstr.admitted s.view = true) :
    exec op.toInstr s = .next (s.receive op) := by
  rw [exec_toInstr, whenAdmitted_eq_next h]

/-- R132. -/
theorem exec_wsIgnore {s : State} {b : Byte} (hst : s.st = .ws) (hb : b ≠ Config.startByte) :
    exec (.wsIgnore b) s = .next s :=
  exec_of_admitted (op := .wsIgnore b) ((Instr.admitted_wsIgnore _ b).2 ⟨hst, hb⟩)

/-- R133. -/
theorem exec_wfStop {s : State} (hst : s.st = .wf) : exec .wfStop s = .next s.wfStop :=
  exec_of_admitted (op := .wfStop) ((Instr.admitted_wfStop _).2 hst)

/-- R141. -/
theorem exec_processFrame {s : State} (hst : s.st = .wf) (hstrm : s.strm = false) :
    exec (.processFrame s.cnt) s = .next (s.processFrame s.cnt) :=
  whenAdmitted_eq_next ((Instr.admitted_processFrame _ _).2 ⟨hst, hstrm, rfl⟩)

theorem exec_dispatch (id : Byte) (len : Nat) (p : List Byte) (s : State) :
    exec (.dispatch id len p) s = .next (s.route id len p) := rfl

theorem exec_respHandler (p : List Byte) (s : State) :
    exec (.respHandler p) s = .next (s.handleResponse p) := rfl

/-! ### The buffer after a nibble is stored -/

/-- R51: a state whose buffer is the one after storing `n` has `n` at the old counter and every other entry as it
was. -/
theorem State.bufRead_of_buf_eq_bufPush {s t : State} {n : Nibble} (hbuf : t.buf = (s.bufPush n).buf)
    (hlt : s.cnt < s.buf.length) :
    t.buf.length = s.buf.length ∧ t.bufRead s.cnt = n ∧ ∀ i, i ≠ s.cnt → t.bufRead i = s.bufRead i := by
  have hread (i : Nat) : t.bufRead i = (s.bufPush n).bufRead i := State.bufRead_congr hbuf i
  refine ⟨by simp [hbuf], ?_, fun i hi => ?_⟩
  · rw [hread, s.bufRead_bufPush_self n hlt]
  · rw [hread, s.bufRead_bufPush_of_ne n hi]

/-- In a state of the invariant an identifier's second nibble has its entry. -/
theorem State.Inv.one_lt_length_buf {s : State} (h : s.Inv) : 1 < s.buf.length := by
  obtain ⟨⟨hcap, hbuf⟩, -⟩ := h
  have hcap : 8 ≤ s.params.bufCap := hcap
  omega

/-- R137 to R139: the same for the second nibble of a pair, which takes entry 1. -/
theorem State.bufRead_of_buf_eq_bufPush_second {s t : State} {n : Nibble} (hinv : s.Inv) (h1 : s.cnt = 1)
    (hbuf : t.buf = (s.bufPush n).buf) :
    t.buf.length = s.buf.length ∧ t.bufRead 1 = n ∧ ∀ i, i ≠ 1 → t.bufRead i = s.bufRead i :=
  h1 ▸ State.bufRead_of_buf_eq_bufPush hbuf (h1 ▸ hinv.one_lt_length_buf)

/-! ### The fields of a completed frame -/

/-- R142: the identifier is the first pair. -/
theorem State.extractFrame_id (s : State) (n : Nat) : (s.extractFrame n).id = s.bufRead 0 ++ s.bufRead 1 :=
  s.pairAt_eq 0

/-- R142: the payload is the pairs between the identifier and the trailer. -/
theorem State.extractFrame_payload (s : State) (n : Nat) : (s.extractFrame n).payload =
    (List.range ((n - 6) / 2)).map fun k => s.bufRead (2 + 2 * k) ++ s.bufRead (3 + 2 * k) := by
  refine List.map_congr_left fun k _ => ?_
  have hlow : 2 + 2 * k + 1 = 3 + 2 * k := by omega
  rw [s.pairAt_eq, hlow]

/-- R143: a frame of a good length is handed to the mux. -/
theorem State.processFrame_routed {n : Nat} (s : State) (h8 : 8 ≤ n) (heven : n % 2 = 0) :
    s.processFrame n = s.route (s.extractFrame n).id ((n - 6) / 2) (s.extractFrame n).payload := by
  obtain ⟨hbad, -⟩ | ⟨-, -, h⟩ := s.processFrame_cases n
  · omega
  · exact h

/-- R133 with R143: closing a frame of a good length. -/
theorem State.wfStop_routed {s : State} (hstrm : s.strm = false) (h8 : 8 ≤ s.cnt) (heven : s.cnt % 2 = 0) :
    s.wfStop =
      { (s.emit .frameEnd).route (s.extractFrame s.cnt).id ((s.cnt - 6) / 2) (s.extractFrame s.cnt).payload with
        st := .ws, strm := false } := by
  rw [State.wfStop_buffered hstrm, State.processFrame_routed _ h8 heven]
  rfl

/-- R164, R204: the consumer of identifier 5 is the response handler. -/
theorem State.consume_response (s : State) (p : List Byte) : s.consume 5 p = s.handleResponse p := if_pos rfl

/-! ### The trailer -/

/-! The mux and the consumer of an event neither read nor write the buffer. -/

theorem State.consume_setBuf (s : State) (other : List Nibble) (id : Byte) (p : List Byte) :
    ({ s with buf := other } : State).consume id p = { s.consume id p with buf := other } := by
  unfold State.consume
  split_ifs <;> rfl

theorem State.route_setBuf (s : State) (other : List Nibble) (id : Byte) (len : Nat) (p : List Byte) :
    ({ s with buf := other } : State).route id len p = { s.route id len p with buf := other } := by
  obtain ⟨hreg, h⟩ | ⟨hinvalid, h⟩ | ⟨hvalid, hsize, h⟩ := s.route_cases id len p <;> rw [h]
  · rw [State.route_registered (s := { s with buf := other }) p hreg]
    exact State.consume_setBuf (s.emit (.dispatch id p)) other id p
  · exact State.route_unregistered (s := { s with buf := other }) len p hinvalid
  · exact State.route_mismatch (s := { s with buf := other }) p hvalid hsize

/-- R142, R144: of a body of `n` nibbles, `n` at least 8, the identifier and the payload are read below entry
`n - 4`. -/
theorem State.extractFrame_congr {s t : State} {n : Nat} (h8 : 8 ≤ n)
    (h : ∀ i, i < n - 4 → t.bufRead i = s.bufRead i) :
    (t.extractFrame n).id = (s.extractFrame n).id ∧ (t.extractFrame n).payload = (s.extractFrame n).payload := by
  constructor
  · rw [State.extractFrame_id, State.extractFrame_id, h 0 (by omega), h 1 (by omega)]
  · rw [State.extractFrame_payload, State.extractFrame_payload]
    refine List.map_congr_left fun k hk => ?_
    have hk : k < (n - 6) / 2 := List.mem_range.1 hk
    rw [h (2 + 2 * k) (by omega), h (3 + 2 * k) (by omega)]

/-- R144: PROCESS_FRAME does the same with every trailer. -/
theorem State.processFrame_setBuf {s : State} {n : Nat} {other : List Nibble} (h8 : 8 ≤ n)
    (h : ∀ i, i < n - 4 → ({ s with buf := other } : State).bufRead i = s.bufRead i) :
    ({ s with buf := other } : State).processFrame n = { s.processFrame n with buf := other } := by
  obtain heven | hodd := Nat.mod_two_eq_zero_or_one n
  · obtain ⟨hid, hpayload⟩ := State.extractFrame_congr h8 h
    rw [State.processFrame_routed _ h8 heven, State.processFrame_routed _ h8 heven, hid, hpayload,
      State.route_setBuf]
  · rw [State.processFrame_dropped (.inr hodd), State.processFrame_dropped (.inr hodd)]
    rfl

theorem State.wfStop_setBuf {s : State} {other : List Nibble} (hstrm : s.strm = false) (h8 : 8 ≤ s.cnt)
    (h : ∀ i, i < s.cnt - 4 → ({ s with buf := other } : State).bufRead i = s.bufRead i) :
    ({ s with buf := other } : State).wfStop = { s.wfStop with buf := other } := by
  rw [State.wfStop_buffered hstrm, State.wfStop_buffered (s := { s with buf := other }) hstrm]
  exact congrArg (fun t : State => { t with st := .ws, strm := false })
    (State.processFrame_setBuf (s := s.emit .frameEnd) h8 h)

/-! ### The events a step appends -/

theorem newEvents_of_append {s t : State} {es : List Event} (h : t.ev = s.ev ++ es) : newEvents s t = es := by
  rw [newEvents, h, List.drop_left]

theorem newEvents_of_ev_eq {s t : State} (h : t.ev = s.ev) : newEvents s t = [] :=
  newEvents_of_append (by simp [h])

/-- R223: a drop gives no event. -/
theorem State.newEvents_drop (s : State) (d : Diag) : newEvents s (s.drop d) = [] :=
  newEvents_of_ev_eq (s.label_ev d)

/-- Over two stretches on which the trace grows, the events are those of the first and then those of the second. -/
theorem newEvents_trans {s t u : State} (h₁ : s.Extends t) (h₂ : t.Extends u) :
    newEvents s u = newEvents s t ++ newEvents t u := by
  obtain ⟨es₁, he₁⟩ := h₁.ev
  obtain ⟨es₂, he₂⟩ := h₂.ev
  rw [newEvents_of_append he₁, newEvents_of_append he₂]
  exact newEvents_of_append (by rw [he₂, he₁, List.append_assoc])

/-- R161: the mux gives no `Dispatch` but the one of its operands, and only where they are registered. -/
theorem State.dispatch_mem_route {s : State} {id id' : Byte} {len : Nat} {p p' : List Byte}
    (h : .dispatch id' p' ∈ newEvents s (s.route id len p)) : id' = id ∧ p' = p ∧ s.regRead id = ⟨true, len⟩ := by
  obtain ⟨hreg, -⟩ | ⟨-, hdrop⟩ | ⟨-, -, hdrop⟩ := s.route_cases id len p
  · rw [newEvents_of_append (State.route_ev_of_registered p hreg), List.mem_singleton] at h
    cases h
    exact ⟨rfl, rfl, hreg⟩
  · rw [hdrop, State.newEvents_drop] at h
    cases h
  · rw [hdrop, State.newEvents_drop] at h
    cases h

/-- R141, R142: what PROCESS_FRAME dispatches is the first pair's identifier with a payload of the buffered size. -/
theorem State.dispatch_mem_processFrame {s : State} {n : Nat} {id : Byte} {p : List Byte}
    (h : .dispatch id p ∈ newEvents s (s.processFrame n)) :
    8 ≤ n ∧ id = s.pairAt 0 ∧ p.length = (n - 6) / 2 ∧ s.regRead id = ⟨true, p.length⟩ := by
  obtain ⟨-, hdrop⟩ | ⟨h8, -, hroute⟩ := s.processFrame_cases n
  · rw [hdrop, State.newEvents_drop] at h
    cases h
  · rw [hroute] at h
    obtain ⟨rfl, rfl, hreg⟩ := State.dispatch_mem_route h
    have hlen : ((List.range ((n - 6) / 2)).map fun k => s.pairAt (2 + 2 * k)).length = (n - 6) / 2 := by simp
    exact ⟨h8, rfl, hlen, by rw [hlen, hreg]⟩

/-! ### What may be dispatched (R146, R161, R165) -/

/-- The identifier is not the streaming request's, its entry is valid with the payload's size, and the payload is one
a frame can carry. -/
def State.Dispatchable (s : State) (id : Byte) (p : List Byte) : Prop :=
  id ≠ Config.streamId ∧ s.regRead id = ⟨true, p.length⟩ ∧ 1 ≤ p.length ∧ p.length ≤ s.params.pmax

/-- From `s` to `t` only what `s` admits is dispatched. -/
def State.DispatchesSound (s t : State) : Prop :=
  ∀ (id : Byte) (p : List Byte), .dispatch id p ∈ newEvents s t → s.Dispatchable id p

theorem State.DispatchesSound.of_silent {s t : State} (h : t.ev = s.ev) : s.DispatchesSound t := by
  intro id p hmem
  rw [newEvents_of_ev_eq h] at hmem
  cases hmem

theorem State.DispatchesSound.of_append {s t : State} {es : List Event} (h : t.ev = s.ev ++ es)
    (hes : ∀ e ∈ es, ∀ id p, e ≠ .dispatch id p) : s.DispatchesSound t := by
  intro id p hmem
  rw [newEvents_of_append h] at hmem
  exact absurd rfl (hes _ hmem id p)

/-- SER_FRAME's and SEND's events are bytes of the transport. -/
theorem State.DispatchesSound.of_transmitted {s t : State} {bs : List Byte}
    (h : t.ev = s.ev ++ bs.map Event.txByte) : s.DispatchesSound t := by
  refine .of_append h fun e he id p => ?_
  obtain ⟨b, -, rfl⟩ := List.mem_map.1 he
  nofun

/-- The registry and the parameters being kept, what the middle state admits the first one admits. -/
theorem State.DispatchesSound.trans {s t u : State} (hext₁ : s.Extends t) (hext₂ : t.Extends u)
    (h₁ : s.DispatchesSound t) (h₂ : t.DispatchesSound u) : s.DispatchesSound u := by
  intro id p hmem
  rw [newEvents_trans hext₁ hext₂] at hmem
  obtain hmem | hmem := List.mem_append.1 hmem
  · exact h₁ id p hmem
  · obtain ⟨hid, hreg, hpos, hmax⟩ := h₂ id p hmem
    exact ⟨hid, State.regRead_congr hext₁.reg id ▸ hreg, hpos, hext₁.params ▸ hmax⟩

/-- R146: the counter's bound is the payload's, and R31's clause on the identifier excludes 100. -/
theorem State.processFrame_dispatchesSound {s : State} (h : s.Inv) (hst : s.st = .wf) (hstrm : s.strm = false) :
    s.DispatchesSound (s.processFrame s.cnt) := by
  intro id p hmem
  obtain ⟨h8, rfl, hlen, hreg⟩ := State.dispatch_mem_processFrame hmem
  obtain ⟨-, hcnt, -, -, hid⟩ := h
  refine ⟨hid ⟨hst, hstrm, by omega⟩, hreg, by omega, ?_⟩
  rw [Params.pmax]
  omega

theorem State.wfStop_dispatchesSound {s : State} (h : s.Inv) (hst : s.st = .wf) : s.DispatchesSound s.wfStop := by
  have hend : s.DispatchesSound (s.emit .frameEnd) := .of_append (s.emit_ev _) (by simp)
  cases hstrm : s.strm with
  | true =>
    rw [State.wfStop_streaming hstrm]
    exact hend
  | false =>
    rw [State.wfStop_buffered hstrm]
    exact hend.trans (s.emit_extends _) (State.processFrame_extends (s.emit .frameEnd) s.cnt).close
      (State.processFrame_dispatchesSound (s := s.emit .frameEnd) (h.congr rfl) hst hstrm)

theorem State.receive_dispatchesSound {s : State} {op : RxOp} (h : s.Inv)
    (hadm : op.toInstr.admitted s.view = true) : s.DispatchesSound (s.receive op) := by
  cases op with
  | wfStop => exact State.wfStop_dispatchesSound h ((Instr.admitted_wfStop _).1 hadm)
  | wfStreamByte n => exact .of_append (s.wfStreamByte_ev n) (by simp)
  | wsStart | wsIgnore | wfDupStart | wfFramingAbort | wfNibAppend | wfIdPair | wfStreamEnter | wfOverflowAbort =>
    exact .of_silent rfl

/-- POLL's loop, byte by byte (R203). -/
theorem State.drain_dispatchesSound {s : State} (bs : List Byte) (h : s.Inv) : s.DispatchesSound (s.drain bs) := by
  induction bs generalizing s with
  | nil => exact .of_silent rfl
  | cons b rest ih =>
    have htaken : ({ s with rxq := rest } : State).Inv := h.congr rfl
    have ⟨_, hcnt, _⟩ := htaken
    have hbyte : s.DispatchesSound (({ s with rxq := rest } : State).byteIn b) :=
      State.receive_dispatchesSound htaken (selectRx_admitted b hcnt)
    have hext : s.Extends { s with rxq := rest } := .of_silent rfl rfl rfl
    exact hbyte.trans (hext.trans (State.receive_extends _ _)) (State.drain_extends _ rest)
      (ih (State.byteIn_inv b htaken))

/-- Every operation that arrives on a port; DISPATCH and PROCESS_FRAME, asked for by themselves, would emit whatever
they are given. -/
theorem exec_dispatchesSound {i : Instr} {s t : State} (hs : s.Inv) (hport : encode i ≠ none)
    (h : exec i s = .next t) : s.DispatchesSound t := by
  cases effect_of_exec h with
  | received op hadm => exact State.receive_dispatchesSound hs hadm
  | polled => exact State.drain_dispatchesSound _ hs
  | transmitted | requested => exact .of_transmitted (s.transmit_ev _)
  | processed | routed => exact absurd rfl hport
  | cleared => simp [State.DispatchesSound, newEvents]
  | returned | registered | responded | stopped => exact .of_silent rfl

/-! ### Streaming and overflow -/

/-- R138. -/
theorem State.byteIn_streamEnter {s : State} (hcap : 8 ≤ s.params.bufCap) (hst : s.st = .wf) (h1 : s.cnt = 1)
    (hstrm : s.strm = false) (hid : nibJoin (s.bufRead 0) 4 = Config.streamId) :
    s.byteIn (nibbleByte 4) = s.wfStreamEnter :=
  State.byteIn_of_admitted (op := .wfStreamEnter) hcap ((Instr.admitted_wfStreamEnter _).2 ⟨hst, h1, hstrm, hid⟩)

/-- R140. -/
theorem State.byteIn_overflow {s : State} (n : Nibble) (hcap : 8 ≤ s.params.bufCap) (hst : s.st = .wf)
    (hfull : s.cnt = s.params.bufCap) : s.byteIn (nibbleByte n) = s.abort (.overflow s.cnt) :=
  State.byteIn_of_admitted (op := .wfOverflowAbort n) hcap ((Instr.admitted_wfOverflowAbort _ n).2 ⟨hst, hfull⟩)

/-- R136, R138: the identifier 100 puts a frame just opened in streaming sub-mode, without an event. -/
theorem State.receiveAll_streamId {s : State} (hs : s.StorageInv) (hopen : s.AtBoundary false) :
    s.receiveAll (splitBytes [Config.streamId]) = (s.bufPush 6).wfStreamEnter := by
  obtain ⟨hfirst, h1, hpushed⟩ := State.byteIn_nibble_atBoundary 6 hs hopen
  have hsplit : splitBytes [Config.streamId] = [nibbleByte 6, nibbleByte 4] := by decide
  rw [hsplit, State.receiveAll_cons, hfirst, State.receiveAll_cons, State.receiveAll_nil]
  exact State.byteIn_streamEnter hs.1 hopen.st h1 hopen.strm (by rw [hpushed]; decide)

@[simp] theorem State.bufPushAll_params (s : State) (ns : List Nibble) : (s.bufPushAll ns).params = s.params := by
  rw [s.bufPushAll_eq ns]

@[simp] theorem State.bufPushAll_diags (s : State) (ns : List Nibble) : (s.bufPushAll ns).diags = s.diags := by
  rw [s.bufPushAll_eq ns]

/-- The state after storing of `ns` what still fits in the buffer. -/
def State.bufFill (s : State) (ns : List Nibble) : State := s.bufPushAll (ns.take (s.params.bufCap - s.cnt))

section
variable (s : State) (ns : List Nibble)

theorem State.bufFill_params : (s.bufFill ns).params = s.params := s.bufPushAll_params _
theorem State.bufFill_st : (s.bufFill ns).st = s.st := s.bufPushAll_st _
theorem State.bufFill_ev : (s.bufFill ns).ev = s.ev := s.bufPushAll_ev _
theorem State.bufFill_diags : (s.bufFill ns).diags = s.diags := s.bufPushAll_diags _

end

/-- Where the nibbles do not all fit, the buffer is full afterwards. -/
theorem State.bufFill_cnt {s : State} {ns : List Nibble} (hle : s.cnt ≤ s.params.bufCap)
    (hover : s.params.bufCap < s.cnt + ns.length) : (s.bufFill ns).cnt = s.params.bufCap := by
  rw [State.bufFill, State.bufPushAll_cnt, List.length_take]
  omega

/-- The bytes behind an opened frame's start byte hold no other start byte. -/
theorem ne_startByte_of_mem_nibbleBytes {ns : List Nibble} {b : Byte}
    (h : b ∈ ns.map nibbleByte ++ [Config.stopByte]) : b ≠ Config.startByte := by
  rintro rfl
  obtain h | h := List.mem_append.1 h
  · obtain ⟨n, -, hn⟩ := List.mem_map.1 h
    have hclass := classify_nibbleByte n
    rw [hn, classify_startByte] at hclass
    cases hclass
  · exact absurd (List.mem_singleton.1 h) (by decide)

/-- R140, R145(a): behind the identifier, of nibbles that do not all fit those that do are stored, the next one
aborts, and what follows is ignored. -/
theorem State.receiveAll_overflow {s : State} {ns : List Nibble} (hcap : 8 ≤ s.params.bufCap) (hst : s.st = .wf)
    (h2 : 2 ≤ s.cnt) (hle : s.cnt ≤ s.params.bufCap) (hover : s.params.bufCap < s.cnt + ns.length) :
    s.receiveAll (ns.map nibbleByte ++ [Config.stopByte]) =
      (s.bufFill ns).abort (.overflow s.params.bufCap) := by
  set k := s.params.bufCap - s.cnt with hk
  have hklt : k < ns.length := by omega
  have hsplit : ns.map nibbleByte ++ [Config.stopByte] =
      (ns.take k).map nibbleByte ++
        (nibbleByte ns[k] :: ((ns.drop (k + 1)).map nibbleByte ++ [Config.stopByte])) := by
    conv_lhs => rw [← List.take_append_drop k ns, List.drop_eq_getElem_cons hklt]
    rw [List.map_append, List.map_cons, List.append_assoc, List.cons_append]
  have hstored : s.receiveAll ((ns.take k).map nibbleByte) = s.bufFill ns :=
    State.receiveAll_nibbles hcap hst h2 (by rw [List.length_take]; omega)
  have hfull : (s.bufFill ns).cnt = s.params.bufCap := State.bufFill_cnt hle hover
  have habort : (s.bufFill ns).byteIn (nibbleByte ns[k]) = (s.bufFill ns).abort (.overflow s.params.bufCap) := by
    rw [State.byteIn_overflow _ (by rwa [State.bufFill_params]) (by rw [State.bufFill_st, hst])
      (by rw [hfull, State.bufFill_params]), hfull]
  rw [hsplit, State.receiveAll_append, hstored, State.receiveAll_cons, habort]
  exact State.receiveAll_ignored rfl fun b hb => ne_startByte_of_mem_nibbleBytes hb

/-! ### Garbage -/

/-- R132: in `WS` a step on a byte that is no start byte takes it and does nothing else. -/
theorem step_ignored {s : State} {b : Byte} {q : List Input} (hst : s.st = .ws) (hb : b ≠ Config.startByte)
    (hq : s.inq = .txn (.rxByte b) :: q) : step s = .next { s with inq := q } := by
  have hselect : decode s.view (.rxByte b) = .wsIgnore b := by
    rw [decode_rxByte, selectRx_ws hst, if_neg hb]
    rfl
  rw [step_txn hq, runTxn, State.view_inq, hselect]
  exact exec_wsIgnore hst hb

end Sys2Proof.Machine

/-!
The statements about U3: the ten receive operations and PROCESS_FRAME (R131 to R144), what is dispatched (R146), and
garbage, streaming and overflow as whole runs (R145, R148, R140).
-/
namespace Sys2Proof.Proofs.Parser

open Sys2Proof Sys2Proof.Machine

/-- Settles O35: a step runs an operation that arrives on a port, since it encodes to its transaction (R70), and every
such operation dispatches soundly. -/
theorem dispatchedFramesAreRegistered : Obligations.DispatchedFramesAreRegistered := by
  intro s t hinv hstep
  suffices h : s.DispatchesSound t from h
  obtain ⟨-, rfl⟩ | ⟨bs, q, -, rfl⟩ | ⟨x, q, -, hexec⟩ := step_cases hstep
  · exact .of_silent rfl
  · exact .of_silent rfl
  · have ⟨⟨hcap, _⟩, hcnt, _⟩ := hinv
    obtain ⟨-, -, henc⟩ := Encoding.encodeOfDecode s.view x hcap hcnt
    exact exec_dispatchesSound (s := { s with inq := q }) (hinv.congr rfl) (by simp [henc]) hexec

/-- Settles O57: the start byte opens the frame, the identifier enters streaming, and each further byte is
delivered. -/
theorem streamingFrameEvents : Obligations.StreamingFrameEvents := by
  intro s vs q hinv hst hq
  have ⟨hs, _⟩ := hinv
  have hopen : s.wsStart.StorageInv := State.wsStart_storage hs
  have henter : (s.wsStart.bufPush 6).wfStreamEnter.StorageInv :=
    State.bufPush_storage 4 (State.bufPush_storage 6 hopen)
  obtain ⟨hws, hstrm, hev⟩ := Serializer.receiveAll_frame_of_streaming vs henter ⟨rfl, rfl, rfl⟩
  have hreceived : s.receiveAll (Config.startByte :: (splitBytes (Config.streamId :: vs) ++ [Config.stopByte])) =
      (s.wsStart.bufPush 6).wfStreamEnter.receiveAll (splitBytes vs ++ [Config.stopByte]) := by
    have hsplit : splitBytes (Config.streamId :: vs) = splitBytes [Config.streamId] ++ splitBytes vs := rfl
    rw [State.receiveAll_cons, State.byteIn_start_of_ws hst, hsplit, List.append_assoc, State.receiveAll_append,
      State.receiveAll_streamId hopen s.wsStart_atBoundary]
  have hlen : (Config.startByte :: (splitBytes (Config.streamId :: vs) ++ [Config.stopByte])).length =
      2 * vs.length + 4 := by
    rw [List.length_cons, List.length_append, length_splitBytes, List.length_cons, List.length_singleton]
    omega
  have hrun := runSteps_rxInputs hinv hq
  exact ⟨_, hlen ▸ hrun, rfl, hreceived ▸ hws, hreceived ▸ hstrm, hreceived ▸ hev⟩

/-- Settles O58: the identifier is stored, of the rest what fits is stored, and the next nibble overflows. -/
theorem oversizedFrameIsLost : Obligations.OversizedFrameIsLost := by
  intro s id r q hinv hst hid hover hq
  have ⟨hs, _⟩ := hinv
  have hcap : 8 ≤ s.params.bufCap := hs.1
  have hidentified : s.wsStart.receiveAll (splitBytes [id]) = s.wsStart.bufPushAll (nibbles [id]) :=
    State.receiveAll_body (State.wsStart_storage hs) s.wsStart_atBoundary hid (by simp; omega)
  set u := s.wsStart.bufPushAll (nibbles [id])
  have hreceived : s.receiveAll (serialize id r) =
      u.receiveAll ((nibbles (r ++ [0, 0])).map nibbleByte ++ [Config.stopByte]) := by
    have hsplit : splitBytes (bodyBytes id r) = splitBytes [id] ++ splitBytes (r ++ [0, 0]) := rfl
    rw [serialize_eq, State.receiveAll_cons, State.byteIn_start_of_ws hst, hsplit, List.append_assoc,
      State.receiveAll_append, hidentified, splitBytes_eq_map_nibbles]
  have hcnt : u.cnt = 2 := s.wsStart.bufPushAll_cnt _
  have hparams : u.params = s.params := s.wsStart.bufPushAll_params _
  have hle : u.cnt ≤ u.params.bufCap := by rw [hcnt, hparams]; omega
  have hrest : u.params.bufCap < u.cnt + (nibbles (r ++ [0, 0])).length := by
    rw [hcnt, hparams, length_nibbles, List.length_append, List.length_cons, List.length_singleton]
    omega
  have hlost := State.receiveAll_overflow (hparams ▸ hcap) (s.wsStart.bufPushAll_st _) hcnt.ge hle hrest
  have hrun := runSteps_rxInputs hinv hq
  rw [length_serialize, hreceived, hlost, hparams] at hrun
  refine ⟨_, hrun, rfl, rfl, rfl, ?cnt, ?ev, ?diags⟩
  case cnt => exact (State.bufFill_cnt hle hrest).trans (by rw [hparams])
  case ev => exact (u.bufFill_ev _).trans (s.wsStart.bufPushAll_ev _)
  case diags => exact congrArg (· ++ _) ((u.bufFill_diags _).trans (s.wsStart.bufPushAll_diags _))

/-- Settles O24: WF_STOP hands the frame to the mux, whose three outcomes are the three clauses. -/
theorem wfStopRoutesFrame : Obligations.WfStopRoutesFrame := by
  intro s id payload hst hstrm h8 heven hid hpayload
  rw [← s.extractFrame_id s.cnt] at hid
  rw [← s.extractFrame_payload s.cnt] at hpayload
  rw [exec_wfStop hst, State.wfStop_routed hstrm h8 heven, ← hid, ← hpayload]
  refine ⟨fun hreg hne => ?registered, fun hinvalid => ?unregistered, fun hvalid hsize => ?mismatch⟩
  case registered =>
    rw [State.route_registered (s := s.emit .frameEnd) payload hreg, State.consume_of_ne _ payload hne]
    simp [State.emit]
  case unregistered =>
    rw [State.route_unregistered (s := s.emit .frameEnd) _ payload hinvalid]
    rfl
  case mismatch =>
    rw [State.route_mismatch (s := s.emit .frameEnd) payload hvalid hsize]
    rfl

/-- Settles O37: what STOP reads of the buffer stands below the trailer, and the rest of it is not touched. -/
theorem trailerIsNeverChecked : Obligations.TrailerIsNeverChecked := by
  intro s other _ hst hstrm h8 _ hagree
  have hread (i : Nat) (hi : i < s.cnt - 4) : ({ s with buf := other } : State).bufRead i = s.bufRead i := by
    simp only [State.bufRead, List.getD_eq_getElem?_getD, hagree i hi]
  refine ⟨_, exec_wfStop hst, ?_⟩
  rw [exec_wfStop (s := { s with buf := other }) hst, State.wfStop_setBuf hstrm h8 hread]

/-- Settles O56: by induction on the bytes; each step takes one of them and leaves the parser in `WS`. -/
theorem garbageIsIgnored : Obligations.GarbageIsIgnored := by
  intro s bs q hst hbs hq
  induction bs generalizing s with
  | nil =>
    obtain rfl : s.inq = q := hq
    rfl
  | cons b bs ih =>
    obtain ⟨hb, hbs⟩ := List.forall_mem_cons.1 hbs
    rw [List.length_cons, runSteps_succ (step_ignored (q := rxInputs bs ++ q) hst hb hq)]
    exact ih { s with inq := rxInputs bs ++ q } hst hbs rfl

/-- Settles O20: the next state is `wsStart`, whose buffer is a fresh draw of `BUF_CAP` entries. -/
theorem wsStartOpensFrame : Obligations.WsStartOpensFrame := fun s hst =>
  ⟨s.wsStart, exec_of_admitted (op := .wsStart) ((Instr.admitted_wsStart _).2 hst), by simp, rfl⟩

/-- Settles O21: both operations' effect is the state itself. -/
theorem ignoredBytesChangeNothing : Obligations.IgnoredBytesChangeNothing :=
  ⟨fun _ _ hst hb => exec_wsIgnore hst hb, fun _ hst h0 =>
    exec_of_admitted (op := .wfDupStart) ((Instr.admitted_wfDupStart _).2 ⟨hst, h0⟩)⟩

/-- Settles O22: the two branches of R133. -/
theorem wfStopClosesFrame : Obligations.WfStopClosesFrame := by
  refine ⟨fun s hst hstrm => ?streaming, fun s hst hstrm => ?buffered⟩
  case streaming =>
    rw [exec_wfStop hst, State.wfStop_streaming hstrm]
    rfl
  case buffered =>
    refine ⟨_, exec_processFrame (s := s.emit .frameEnd) hst hstrm, ?_⟩
    rw [exec_wfStop hst, State.wfStop_buffered hstrm]
    rfl

/-- Settles O23: PROCESS_FRAME drops the frame, and closing it changes `st` and `strm` only. -/
theorem wfStopDropsBadLength : Obligations.WfStopDropsBadLength := by
  intro s hst hstrm hbad
  rw [exec_wfStop hst, State.wfStop_buffered hstrm, State.processFrame_dropped hbad]
  rfl

/-- Settles O25: the mux's consumer of identifier 5 is the response handler, which does not read `st` or `strm`. -/
theorem wfStopDeliversResponse : Obligations.WfStopDeliversResponse := by
  intro s payload hst hstrm h8 heven hid hpayload hreg
  rw [← s.extractFrame_id s.cnt] at hid
  rw [← s.extractFrame_payload s.cnt] at hpayload
  refine ⟨_, exec_wfStop hst, ?_⟩
  rw [State.wfStop_routed hstrm h8 heven, hid, ← hpayload,
    State.route_registered (s := s.emit .frameEnd) payload hreg, State.consume_response, exec_respHandler,
    List.append_cons]
  rfl

/-- Settles O26: both operations are R222's abort, with their own label. -/
theorem abortsReturnToWaiting : Obligations.AbortsReturnToWaiting := by
  refine ⟨fun s b hst hb => ?framing, fun s n hst hfull => ?overflow⟩
  case framing =>
    have hb : classify b = .high ∨ b = Config.startByte ∧ s.cnt ≠ 0 := hb.imp_left (classify_eq_high_iff b).2
    exact exec_of_admitted (op := .wfFramingAbort b) ((Instr.admitted_wfFramingAbort _ b).2 ⟨hst, hb⟩)
  case overflow =>
    rw [← hfull]
    exact exec_of_admitted (op := .wfOverflowAbort n) ((Instr.admitted_wfOverflowAbort _ n).2 ⟨hst, hfull⟩)

/-- Settles O27: the append is `bufPush`. -/
theorem nibAppendStoresNibble : Obligations.NibAppendStoresNibble := fun s n hst hne hlt hlen =>
  ⟨s.bufPush n, exec_of_admitted (op := .wfNibAppend n) ((Instr.admitted_wfNibAppend _ n).2 ⟨hst, hne, hlt⟩), rfl,
    State.bufRead_of_buf_eq_bufPush rfl (hlen ▸ hlt)⟩

/-- Settles O28: the append at entry 1. -/
theorem idPairCompletesIdentifier : Obligations.IdPairCompletesIdentifier := by
  intro s n hst h1 hstrm hinv hid
  rw [← nibJoin_eq_append] at hid
  refine ⟨s.bufPush n,
    exec_of_admitted (op := .wfIdPair n) ((Instr.admitted_wfIdPair _ n).2 ⟨hst, h1, hstrm, hid⟩), ?_,
    State.bufRead_of_buf_eq_bufPush_second hinv h1 rfl⟩
  rw [State.bufPush, h1]

/-- Settles O29: 6 and 4 are the nibbles of the identifier 100. -/
theorem streamEnterSetsStreaming : Obligations.StreamEnterSetsStreaming := by
  intro s hst h1 hstrm hinv h6
  have hid : nibJoin (s.bufRead 0) 4 = Config.streamId := by
    rw [h6]
    decide
  exact ⟨s.wfStreamEnter,
    exec_of_admitted (op := .wfStreamEnter) ((Instr.admitted_wfStreamEnter _).2 ⟨hst, h1, hstrm, hid⟩), rfl,
    State.bufRead_of_buf_eq_bufPush_second hinv h1 rfl⟩

/-- Settles O30: the pair delivered is entry 0 and the nibble just stored. -/
theorem streamByteDeliversPair : Obligations.StreamByteDeliversPair := by
  intro s n hst h1 hstrm hinv
  have hpair : (s.bufPush n).pairAt 0 = s.bufRead 0 ++ n := by
    rw [State.pairAt_bufPush_of_cnt_eq_one n h1 hinv.one_lt_length_buf, nibJoin_eq_append]
  refine ⟨s.wfStreamByte n,
    exec_of_admitted (op := .wfStreamByte n) ((Instr.admitted_wfStreamByte _ n).2 ⟨hst, h1, hstrm⟩), ?_,
    State.bufRead_of_buf_eq_bufPush_second hinv h1 rfl⟩
  rw [← hpair]
  rfl

/-- Settles O31: the length check's two branches; a frame of a good length goes to the mux, which is DISPATCH. -/
theorem processFrameHandsOff : Obligations.ProcessFrameHandsOff := by
  intro s hst hstrm
  refine ⟨fun hbad => ?dropped, fun h8 heven => ⟨_, exec_processFrame hst hstrm, ?routed⟩⟩
  case dropped =>
    rw [exec_processFrame hst hstrm, State.processFrame_dropped hbad]
    rfl
  case routed =>
    rw [exec_dispatch, State.processFrame_routed s h8 heven, s.extractFrame_id, s.extractFrame_payload]

end Sys2Proof.Proofs.Parser

/-!
The mux and the registry: what a write of one entry leaves of what the receive port does (R160 to R165).
-/
namespace Sys2Proof.Machine

/-- R160. -/
theorem exec_regWrite (id : Byte) (size : Nat) (s : State) :
    exec (.regWrite id size) s = .next (s.regWrite id ⟨true, size⟩) := rfl

/-- R203. -/
theorem exec_poll (s : State) : exec .poll s = .next (s.drain s.rxq) := rfl

/-! ### An entry the mux does not look up -/

theorem State.consume_regWrite (s : State) (j : Byte) (e : RegEntry) (id : Byte) (p : List Byte) :
    (s.regWrite j e).consume id p = (s.consume id p).regWrite j e := by
  unfold State.consume
  split_ifs <;> rfl

/-- R161: of the registry the mux reads the entry of its identifier only. -/
theorem State.route_regWrite_of_ne (s : State) {id j : Byte} (e : RegEntry) (len : Nat) (p : List Byte)
    (hne : id ≠ j) : (s.regWrite j e).route id len p = (s.route id len p).regWrite j e := by
  have hread : (s.regWrite j e).regRead id = s.regRead id := s.regRead_regWrite_of_ne e hne
  obtain ⟨hreg, h⟩ | ⟨hinvalid, h⟩ | ⟨hvalid, hsize, h⟩ := s.route_cases id len p <;> rw [h]
  · rw [State.route_registered p (hread.trans hreg)]
    exact State.consume_regWrite (s.emit (.dispatch id p)) j e id p
  · rw [State.route_unregistered len p (by rw [hread, hinvalid])]
    rfl
  · rw [State.route_mismatch p (by rw [hread, hvalid]) (by rwa [hread]), hread]
    rfl

/-- R142: the identifier PROCESS_FRAME looks up is the first buffered pair, and it looks it up only in a frame of 8
nibbles or more. -/
theorem State.processFrame_regWrite_of_ne {s : State} {n : Nat} {j : Byte} (e : RegEntry)
    (hne : 8 ≤ n → s.pairAt 0 ≠ j) : (s.regWrite j e).processFrame n = (s.processFrame n).regWrite j e := by
  obtain ⟨hbad, h⟩ | ⟨h8, heven, -⟩ := s.processFrame_cases n
  · rw [h, State.processFrame_dropped hbad]
    rfl
  · rw [State.processFrame_routed _ h8 heven, State.processFrame_routed s h8 heven]
    exact s.route_regWrite_of_ne e _ _ (hne h8)

/-! ### Entry 100 under the receive port (R165) -/

/-- R31's clause on the identifier: a buffered frame is not one of identifier 100. -/
theorem State.wfStop_regWrite_streamId {s : State} (e : RegEntry) (h : s.Inv) (hst : s.st = .wf) :
    (s.regWrite Config.streamId e).wfStop = s.wfStop.regWrite Config.streamId e := by
  cases hstrm : s.strm with
  | true =>
    rw [State.wfStop_streaming hstrm, State.wfStop_streaming (s := s.regWrite _ e) hstrm]
    rfl
  | false =>
    obtain ⟨-, -, -, -, hid⟩ := h
    rw [State.wfStop_buffered hstrm, State.wfStop_buffered (s := s.regWrite _ e) hstrm]
    exact congrArg (fun t : State => { t with st := .ws, strm := false })
      (State.processFrame_regWrite_of_ne (s := s.emit .frameEnd) (n := s.cnt) e fun h8 =>
        hid ⟨hst, hstrm, by omega⟩)

/-- WF_STOP is the only receive operation that reads the registry. -/
theorem State.receive_regWrite_streamId {s : State} {op : RxOp} (e : RegEntry) (h : s.Inv)
    (hadm : op.toInstr.admitted s.view = true) :
    (s.regWrite Config.streamId e).receive op = (s.receive op).regWrite Config.streamId e := by
  cases op with
  | wfStop => exact State.wfStop_regWrite_streamId e h ((Instr.admitted_wfStop _).1 hadm)
  | wsStart | wsIgnore | wfDupStart | wfFramingAbort | wfNibAppend | wfIdPair | wfStreamEnter | wfStreamByte
  | wfOverflowAbort => rfl

theorem State.byteIn_regWrite_streamId {s : State} (e : RegEntry) (b : Byte) (h : s.Inv) :
    (s.regWrite Config.streamId e).byteIn b = (s.byteIn b).regWrite Config.streamId e := by
  have ⟨_, hcnt, _⟩ := h
  exact State.receive_regWrite_streamId e h (selectRx_admitted b hcnt)

/-- POLL's loop, byte by byte (R203). -/
theorem State.drain_regWrite_streamId {s : State} (e : RegEntry) (bs : List Byte) (h : s.Inv) :
    (s.regWrite Config.streamId e).drain bs = (s.drain bs).regWrite Config.streamId e := by
  induction bs generalizing s with
  | nil => rfl
  | cons b rest ih =>
    have htaken : ({ s with rxq := rest } : State).Inv := h.congr rfl
    have hbyte := State.byteIn_regWrite_streamId e b htaken
    exact (congrArg (fun t : State => t.drain rest) hbyte).trans (ih (State.byteIn_inv b htaken))

/-- The steps on a wire byte with and without the entry written end in states that differ in the entry only. -/
theorem step_rxByte_regWrite_streamId {s : State} {b : Byte} {q : List Input} (e : RegEntry) (h : s.Inv)
    (hq : s.inq = .txn (.rxByte b) :: q) :
    step (s.regWrite Config.streamId e) =
      .next (({ s.byteIn b with inq := q } : State).regWrite Config.streamId e) := by
  rw [step_rxByte (s := s.regWrite _ e) (h.congr rfl) hq, State.byteIn_regWrite_streamId e b h]
  rfl

end Sys2Proof.Machine

/-!
The statements about U4: REG_WRITE, DISPATCH and the reserved identifier 100 (R160 to R165).
-/
namespace Sys2Proof.Proofs.Mux

open Sys2Proof Sys2Proof.Machine

/-- Settles O36: R31 keeps 100 out of the buffered frames, the only ones whose identifier is looked up. -/
theorem registryEntry100IsNeverRead : Obligations.RegistryEntry100IsNeverRead := by
  refine ⟨fun s t hinv hstep p hmem => ?neverDispatched, fun s e hinv => ⟨fun b q hq => ?wireByte, ?poll⟩⟩
  case neverDispatched =>
    obtain ⟨hne, -⟩ := Parser.dispatchedFramesAreRegistered s t hinv hstep 100 p hmem
    exact hne rfl
  case wireByte => exact ⟨_, step_rxByte hinv hq, step_rxByte_regWrite_streamId e hinv hq⟩
  case poll =>
    have hdrain := State.drain_regWrite_streamId e s.rxq hinv
    exact ⟨_, exec_poll s, (exec_poll _).trans (congrArg Host.Outcome.next hdrain)⟩

/-- Settles O32: the registry's read after write, at the entry and beside it. -/
theorem regWriteOverwritesEntry : Obligations.RegWriteOverwritesEntry := fun s id size =>
  ⟨_, exec_regWrite id size s, s.regRead_regWrite_self id _, fun _ hj => s.regRead_regWrite_of_ne _ hj, rfl⟩

/-- Settles O33: the mux's three outcomes; nobody but the consumer of identifier 5 acts on the event. -/
theorem dispatchRoutes : Obligations.DispatchRoutes := by
  intro s id payload
  rw [exec_dispatch]
  refine ⟨fun hreg hne => ?registered, fun hinvalid => ?unregistered, fun hvalid hsize => ?mismatch⟩
  case registered =>
    rw [State.route_registered payload hreg, State.consume_of_ne _ payload hne]
    rfl
  case unregistered =>
    rw [State.route_unregistered _ payload hinvalid]
    rfl
  case mismatch =>
    rw [State.route_mismatch payload hvalid hsize]
    rfl

/-- Settles O34: the event is emitted, and its consumer is RESP_HANDLER (R164, R204). -/
theorem dispatchRunsResponseHandler : Obligations.DispatchRunsResponseHandler := by
  intro s p hreg
  refine ⟨_, exec_dispatch 5 p.length p s, ?_⟩
  rw [exec_respHandler, State.route_registered p hreg, State.consume_response, State.emit]

end Sys2Proof.Proofs.Mux

/-!
The parity unit and the application-word codec: what each operation answers, the parity of a word against the count of
its bits, the places of the fields, and the operand forms of R78 as concatenations, from which their values follow.
-/
namespace Sys2Proof.Machine

/-! Each operation of U5 only answers (R180 to R188). -/

theorem exec_parity32 (w : Word32) (s : State) : exec (.parity32 w) s = .next (s.answer (.bit (parity32 w))) := rfl

theorem exec_parForce (w : Word32) (s : State) : exec (.parForce w) s = .next (s.answer (.word (parForce w))) := rfl

theorem exec_msgPack (type : BitVec 3) (item hb lb : Byte) (s : State) :
    exec (.msgPack type item hb lb) s = .next (s.answer (.word (msgPack ⟨type, item, hb, lb⟩))) := rfl

theorem exec_msgUnpack (w : Word32) (s : State) : exec (.msgUnpack w) s = .next (s.answer (.msg (msgUnpack w))) := rfl

theorem exec_viewU16 (hb lb : Byte) (s : State) :
    exec (.viewU16 hb lb) s = .next (s.answer (.u16 (viewU16 hb lb))) := rfl

theorem exec_viewF88 (hb lb : Byte) (s : State) :
    exec (.viewF88 hb lb) s = .next (s.answer (.fixed (viewF88 hb lb))) := rfl

theorem exec_wordToBytes (w : Word32) (s : State) :
    exec (.wordToBytes w) s = .next (s.answer (.bytes (wordToBytes s.params.recEndian w))) := rfl

theorem exec_bytesToWord (r0 r1 r2 r3 : Byte) (s : State) :
    exec (.bytesToWord r0 r1 r2 r3) s = .next (s.answer (.word (bytesToWord s.params.recEndian r0 r1 r2 r3))) := rfl

/-! ### Parity and the top bit (R180, R181) -/

/-- R180. -/
theorem parity32_eq_popcount (w : Word32) : parity32 w = decide (popcount w % 2 = 1) := parity32_eq w

theorem parity32_of_even {w : Word32} (h : popcount w % 2 = 0) : parity32 w = false := by
  simp [parity32_eq_popcount, h]

theorem parity32_of_odd {w : Word32} (h : popcount w % 2 = 1) : parity32 w = true := by
  simp [parity32_eq_popcount, h]

theorem parForce_of_even {w : Word32} (h : popcount w % 2 = 0) : parForce w = w := by
  simp [parForce, parity32_of_even h]

theorem parForce_of_odd {w : Word32} (h : popcount w % 2 = 1) : parForce w = w ||| 0x80000000#32 := by
  simp [parForce, parity32_of_odd h]

/-- Setting the top bit writes bit 31 and no other. -/
theorem getLsbD_setTopBit (w : Word32) (i : Nat) :
    (w ||| 0x80000000#32).getLsbD i = (w.getLsbD i || decide (i = 31)) := by
  have htop : 0x80000000#32 = BitVec.twoPow 32 31 := rfl
  rw [BitVec.getLsbD_or, htop, BitVec.getLsbD_twoPow]
  simp [eq_comm]

theorem setTopBit_of_set {w : Word32} (h : w.getLsbD 31 = true) : w ||| 0x80000000#32 = w := by
  apply BitVec.eq_of_getLsbD_eq
  intro i hi
  rw [getLsbD_setTopBit]
  obtain rfl | hne := eq_or_ne i 31
  · simp [h]
  · simp [hne]

/-- The count of the set bits, the top bit counted apart. -/
theorem popcount_eq_add_topBit (w : Word32) :
    popcount w = (List.range 31).countP (fun i => w.getLsbD i) + (w.getLsbD 31).toNat := by
  rw [popcount, List.range_succ, List.countP_append, List.countP_singleton]
  cases w.getLsbD 31 <;> rfl

/-- Setting a clear top bit adds one set bit. -/
theorem popcount_setTopBit {w : Word32} (h : w.getLsbD 31 = false) :
    popcount (w ||| 0x80000000#32) = popcount w + 1 := by
  have hlow : (List.range 31).countP (fun i => (w ||| 0x80000000#32).getLsbD i) =
      (List.range 31).countP (fun i => w.getLsbD i) := by
    refine List.countP_congr fun i hi => ?_
    have hne : i ≠ 31 := (List.mem_range.1 hi).ne
    rw [getLsbD_setTopBit, decide_eq_false hne, Bool.or_false]
  rw [popcount_eq_add_topBit, popcount_eq_add_topBit w, hlow, getLsbD_setTopBit, h]
  rfl

/-- A word whose top bit is already set is kept, whatever its parity (D17). -/
theorem parForce_of_topBit {w : Word32} (h : w.getLsbD 31 = true) : parForce w = w := by
  obtain heven | hodd := Nat.mod_two_eq_zero_or_one (popcount w)
  · exact parForce_of_even heven
  · rw [parForce_of_odd hodd, setTopBit_of_set h]

/-- The purpose of PAR_FORCE: even parity, for a word that leaves the parity bit free. -/
theorem popcount_parForce {w : Word32} (h : w.getLsbD 31 = false) : popcount (parForce w) % 2 = 0 := by
  obtain heven | hodd := Nat.mod_two_eq_zero_or_one (popcount w)
  · rw [parForce_of_even heven, heven]
  · rw [parForce_of_odd hodd, popcount_setTopBit h]
    omega

/-- PAR_FORCE leaves every field below the parity bit as it was. -/
theorem extractLsb'_parForce (w : Word32) {start len : Nat} (h : start + len ≤ 31) :
    (parForce w).extractLsb' start len = w.extractLsb' start len := by
  obtain heven | hodd := Nat.mod_two_eq_zero_or_one (popcount w)
  · rw [parForce_of_even heven]
  · apply BitVec.eq_of_getLsbD_eq
    intro i hi
    have hne : start + i ≠ 31 := by omega
    rw [parForce_of_odd hodd, BitVec.getLsbD_extractLsb', BitVec.getLsbD_extractLsb', getLsbD_setTopBit,
      decide_eq_false hne, Bool.or_false]

/-! ### The places of the fields (R77, R182, R183) -/

/-- R182's word before its parity is forced, as a concatenation: parity bit, type, spare bits, item, value bytes. -/
theorem packFields_eq_append (m : AppMsg) :
    packFields m = (0 : BitVec 1) ++ m.type ++ (0 : BitVec 4) ++ m.item ++ m.hb ++ m.lb := by
  ext i hi
  simp only [packFields, BitVec.getElem_or, BitVec.getElem_shiftLeft, BitVec.getElem_setWidth]
  grind

/-- R182: each field at its place, the spare bits zero; field by field, its bits are those of its part of the
concatenation. -/
theorem extractLsb'_packFields (m : AppMsg) :
    (packFields m).extractLsb' 28 3 = m.type ∧ (packFields m).extractLsb' 24 4 = (0 : BitVec 4) ∧
    (packFields m).extractLsb' 16 8 = m.item ∧ (packFields m).extractLsb' 8 8 = m.hb ∧
    (packFields m).extractLsb' 0 8 = m.lb := by
  rw [packFields_eq_append]
  refine ⟨?_, ?_, ?_, ?_, ?_⟩ <;> (ext i hi; simp only [BitVec.getElem_extractLsb']; grind)

theorem getLsbD_packFields_topBit (m : AppMsg) : (packFields m).getLsbD 31 = false := by
  simp [packFields]

/-- R186: what was packed has even parity. -/
theorem popcount_msgPack (m : AppMsg) : popcount (msgPack m) % 2 = 0 := popcount_parForce (getLsbD_packFields_topBit m)

/-- R182: the fields and the spare bits of a packed word. -/
theorem extractLsb'_msgPack (m : AppMsg) :
    (msgPack m).extractLsb' 28 3 = m.type ∧ (msgPack m).extractLsb' 24 4 = (0 : BitVec 4) ∧
    (msgPack m).extractLsb' 16 8 = m.item ∧ (msgPack m).extractLsb' 8 8 = m.hb ∧
    (msgPack m).extractLsb' 0 8 = m.lb := by
  simpa [msgPack, extractLsb'_parForce] using extractLsb'_packFields m

/-- R186: the packing is lossless. -/
theorem msgUnpack_msgPack (m : AppMsg) : msgUnpack (msgPack m) = m := by
  obtain ⟨htype, -, hitem, hhb, hlb⟩ := extractLsb'_msgPack m
  rw [msgUnpack, htype, hitem, hhb, hlb]

/-- R183: the mask has ones at the four fields, so that only bits no field covers are cleared. -/
theorem msgUnpack_maskFields (w : Word32) : msgUnpack (w &&& 0x70FFFFFF#32) = msgUnpack w := by
  have htype : (0x70FFFFFF#32).extractLsb' 28 3 = BitVec.allOnes 3 := rfl
  have hitem : (0x70FFFFFF#32).extractLsb' 16 8 = BitVec.allOnes 8 := rfl
  have hhb : (0x70FFFFFF#32).extractLsb' 8 8 = BitVec.allOnes 8 := rfl
  have hlb : (0x70FFFFFF#32).extractLsb' 0 8 = BitVec.allOnes 8 := rfl
  simp only [msgUnpack, BitVec.extractLsb'_and, htype, hitem, hhb, hlb, BitVec.and_allOnes]

/-! ### The value of concatenated bytes (R78, R184, R185) -/

theorem toNat_append_byte {n : Nat} (x : BitVec n) (b : Byte) : (x ++ b).toNat = 256 * x.toNat + b.toNat := by
  rw [BitVec.toNat_append, ← Nat.shiftLeft_add_eq_or_of_lt b.isLt, Nat.shiftLeft_eq, Nat.mul_comm]

theorem viewU16_eq_append (hb lb : Byte) : viewU16 hb lb = hb ++ lb := by
  ext i hi
  simp only [viewU16, BitVec.getElem_or, BitVec.getElem_shiftLeft, BitVec.getElem_setWidth]
  grind

/-- R184. -/
theorem viewU16_toNat (hb lb : Byte) : (viewU16 hb lb).toNat = 256 * hb.toNat + lb.toNat := by
  rw [viewU16_eq_append, toNat_append_byte]

/-- The fixed-point value scaled by its 8 fractional bits is the signed 16-bit value, no digit lost (R185). -/
theorem mul_viewF88 (hb lb : Byte) : 256 * viewF88 hb lb = (viewU16 hb lb).toInt :=
  mul_div_cancel₀ _ (by norm_num)

/-- The high byte's top bit is the sign. -/
theorem viewU16_toInt (hb lb : Byte) :
    (viewU16 hb lb).toInt = if hb.toNat < 128 then ((256 * hb.toNat + lb.toNat : Nat) : Int)
      else ((256 * hb.toNat + lb.toNat : Nat) : Int) - 65536 := by
  have hlb : lb.toNat < 256 := lb.isLt
  have hsign : 2 * (256 * hb.toNat + lb.toNat) < 2 ^ 16 ↔ hb.toNat < 128 := by omega
  simp only [BitVec.toInt_eq_toNat_cond, viewU16_toNat, hsign]
  rfl

/-! ### The word inside a record (R188) -/

theorem bytesToWord_be_eq_append (r0 r1 r2 r3 : Byte) : bytesToWord .be r0 r1 r2 r3 = r0 ++ r1 ++ r2 ++ r3 := by
  ext i hi
  simp only [bytesToWord, BitVec.getElem_or, BitVec.getElem_shiftLeft, BitVec.getElem_setWidth]
  grind

theorem bytesToWord_le_eq_be (r0 r1 r2 r3 : Byte) : bytesToWord .le r0 r1 r2 r3 = bytesToWord .be r3 r2 r1 r0 := rfl

/-- BYTES_TO_WORD is the number of a 4-byte field (R54, R188). -/
theorem bytesToWord_toNat (e : Endian) (r0 r1 r2 r3 : Byte) :
    (bytesToWord e r0 r1 r2 r3).toNat = fieldNumber e [r0, r1, r2, r3] := by
  have hbe (a b c d : Byte) : (bytesToWord .be a b c d).toNat = ofLittleEndian [d, c, b, a] := by
    rw [bytesToWord_be_eq_append, toNat_append_byte, toNat_append_byte, toNat_append_byte]
    simp only [ofLittleEndian]
    omega
  cases e with
  | le => exact (congrArg BitVec.toNat (bytesToWord_le_eq_be r0 r1 r2 r3)).trans (hbe r3 r2 r1 r0)
  | be => exact hbe r0 r1 r2 r3

/-- Word to bytes to word. -/
theorem bytesToWord_of_wordToBytes {e : Endian} {w : Word32} {r0 r1 r2 r3 : Byte}
    (h : wordToBytes e w = [r0, r1, r2, r3]) : bytesToWord e r0 r1 r2 r3 = w := by
  apply BitVec.eq_of_toNat_eq
  rw [bytesToWord_toNat, ← h, wordToBytes_eq_fieldBytes, fieldNumber_fieldBytes]
  exact Nat.mod_eq_of_lt w.isLt

/-- Bytes to word to bytes. -/
theorem wordToBytes_bytesToWord (e : Endian) (r0 r1 r2 r3 : Byte) :
    wordToBytes e (bytesToWord e r0 r1 r2 r3) = [r0, r1, r2, r3] := by
  rw [wordToBytes_eq_fieldBytes, bytesToWord_toNat]
  exact fieldBytes_fieldNumber e [r0, r1, r2, r3]

/-- R54: a field reads as what was written to it. -/
theorem RecField.read_write {f : RecField} {v : FieldValue} {pre : List Byte} (e : Endian) (post : List Byte)
    (hv : f.fits v = true) (hpre : pre.length = f.offset) : f.read e (pre ++ f.write e v ++ post) = v := by
  have hlen := RecField.length_write e hv
  cases hk : f.kind with
  | raw =>
    rw [f.read_raw e post hk hpre hlen]
    cases v with
    | bytes bs => rfl
    | number n => simp [RecField.fits, hk] at hv
  | ordered =>
    rw [f.read_ordered e post hk hpre hlen]
    cases v with
    | bytes bs => simp [RecField.fits, hk] at hv
    | number n =>
      have hn : n < 256 ^ f.width := by simpa [RecField.fits, hk] using hv
      rw [RecField.write, fieldNumber_fieldBytes, Nat.mod_eq_of_lt hn]

end Sys2Proof.Machine

/-!
The statements about U5: PARITY32, PAR_FORCE, MSG_PACK, MSG_UNPACK, the value views, and the word inside a record
(R180 to R188).
-/
namespace Sys2Proof.Proofs.Parity

open Sys2Proof Sys2Proof.Machine

/-- Settles O38: the fold of exclusive or is the parity of the count. -/
theorem parity32IsPopcountMod2 : Obligations.Parity32IsPopcountMod2 := by
  intro w s
  rw [exec_parity32, parity32_eq_popcount]
  rfl

/-- Settles O39: by the word's parity and by its top bit. -/
theorem parForceSetsTopBit : Obligations.ParForceSetsTopBit := fun w s =>
  ⟨parForce w, exec_parForce w s, parForce_of_even, parForce_of_odd, popcount_parForce, parForce_of_topBit⟩

/-- Settles O40: the fields of the packed word, and the parity PAR_FORCE gives a word whose top bit is clear. -/
theorem msgPackLayout : Obligations.MsgPackLayout := by
  intro type item hb lb s
  obtain ⟨htype, hspare, hitem, hhb, hlb⟩ := extractLsb'_msgPack ⟨type, item, hb, lb⟩
  exact ⟨_, exec_msgPack type item hb lb s, htype, hspare, hitem, hhb, hlb, popcount_msgPack _⟩

/-- Settles O42: what was packed unpacks to its fields and has even parity. -/
theorem packUnpackRoundTrip : Obligations.PackUnpackRoundTrip := by
  intro type item hb lb s
  refine ⟨_, exec_msgPack type item hb lb s, ?unpack, ?parity⟩
  case unpack =>
    rw [exec_msgUnpack, msgUnpack_msgPack]
    rfl
  case parity =>
    rw [exec_parity32, parity32_of_even (popcount_msgPack _)]
    rfl

/-- Settles O43: `256 f` is the signed 16-bit value, whose sign is the high byte's top bit; the range of `f` is that
of a signed 16-bit value, scaled. -/
theorem valueViews : Obligations.ValueViews := by
  intro hb lb s
  have hf := mul_viewF88 hb lb
  have hint := viewU16_toInt hb lb
  refine ⟨⟨_, exec_viewU16 hb lb s, viewU16_toNat hb lb⟩, _, exec_viewF88 hb lb s, ?nonneg, ?neg, ?low, ?high⟩
  case nonneg =>
    intro hpos
    rw [hf, hint, if_pos hpos]
    rfl
  case neg =>
    intro hneg
    rw [hf, hint, if_neg (by omega)]
    push_cast
    rfl
  case low =>
    have hle : ((-32768 : Int) : Rat) ≤ (viewU16 hb lb).toInt := Int.cast_le.2 (BitVec.le_toInt _)
    push_cast at hle
    linarith
  case high =>
    have hle : ((viewU16 hb lb).toInt : Rat) ≤ (32767 : Int) := Int.cast_le.2 (Int.le_of_lt_add_one BitVec.toInt_lt)
    push_cast at hle
    linarith

/-- Settles O44: WORD_TO_BYTES and BYTES_TO_WORD are a 4-byte field's bytes and number, which are inverse; a field
reads its own bytes, whatever stands around them. -/
theorem wordBytesInverse : Obligations.WordBytesInverse := by
  refine ⟨?fromWord, ?fromBytes, ?half, ?word, ?raw, ?written⟩
  case fromWord =>
    refine fun w s => ⟨_, _, _, _, rfl, rfl, rfl, rfl, fun hle => ?_, fun hbe => ?_⟩
    · rw [exec_wordToBytes, exec_bytesToWord, hle, bytesToWord_of_wordToBytes (e := .le) (w := w) rfl]
      exact ⟨rfl, rfl⟩
    · rw [exec_wordToBytes, exec_bytesToWord, hbe, bytesToWord_of_wordToBytes (e := .be) (w := w) rfl]
      exact ⟨rfl, rfl⟩
  case fromBytes =>
    refine fun r0 r1 r2 r3 s => ⟨_, exec_bytesToWord r0 r1 r2 r3 s, ?_⟩
    rw [exec_wordToBytes, wordToBytes_bytesToWord]
    rfl
  case half =>
    intro f pre post a b hk hw hpre
    have hlen : [a, b].length = f.width := hw.symm
    rw [f.read_ordered .le post hk hpre hlen, f.read_ordered .be post hk hpre hlen, fieldNumber_le_two,
      fieldNumber_be_two]
    exact ⟨rfl, rfl⟩
  case word =>
    intro e f pre post a b c d hk hw hpre
    have hlen : [a, b, c, d].length = f.width := hw.symm
    rw [f.read_ordered e post hk hpre hlen, bytesToWord_toNat]
  case raw => exact fun e f pre bs post hk hbs hpre => f.read_raw e post hk hpre hbs
  case written =>
    exact fun e f v pre post hv hpre => ⟨RecField.length_write e hv, RecField.read_write e post hv hpre⟩

/-- Settles O41: the fields by definition; the cleared bits are in none of them. -/
theorem msgUnpackFields : Obligations.MsgUnpackFields := by
  refine ⟨fun w m s hm => ?fields, fun w s => ?masked⟩
  case fields =>
    subst hm
    exact exec_msgUnpack w s
  case masked => rw [exec_msgUnpack, exec_msgUnpack, msgUnpack_maskFields]

end Sys2Proof.Proofs.Parity

/-!
The session host: its operations as meanings of `exec`, POLL's loop as BYTE_IN over the transport (R203), and who
writes the mode (R201, R207, R209).
-/
namespace Sys2Proof.Machine

/-! ### The meanings -/

/-- R202. -/
theorem exec_send (type : BitVec 3) (item hb lb : Byte) (s : State) :
    exec (.send type item hb lb) s =
      .next { s.transmit (serialize Config.requestId (s.requestRecord ⟨type, item, hb, lb⟩)) with mode := .sent } :=
  rfl

/-- R205, in RECEIVED. -/
theorem exec_getMessage_received {s : State} (h : s.mode = .received) :
    exec .getMessage s = .next (s.answer (.message (some (msgUnpack s.word)))) := by
  simp [exec, execGetMessage, h]

/-- R205, in any other mode. -/
theorem exec_getMessage_of_ne {s : State} (h : s.mode ≠ .received) :
    exec .getMessage s = .next (s.answer (.message none)) := by
  simp [exec, execGetMessage, h]

/-- R206. -/
theorem exec_stopSession (s : State) : exec .stopSession s = .next { s with mode := .idle } := rfl

/-- R188: a word takes four bytes of its record. -/
@[simp] theorem length_wordToBytes (e : Endian) (w : Word32) : (wordToBytes e w).length = 4 := by
  rw [wordToBytes_eq_fieldBytes, length_fieldBytes]

/-- R204: of a payload of four bytes or more the first four are the word's, and no free value is drawn. -/
theorem State.handleResponse_cons (s : State) (p0 p1 p2 p3 : Byte) (rest : List Byte) :
    s.handleResponse (p0 :: p1 :: p2 :: p3 :: rest) =
      { s with word := bytesToWord s.params.recEndian p0 p1 p2 p3, mode := .received } := by
  simp [State.handleResponse, State.payloadByte]

/-! ### POLL's loop -/

/-! No operation of the receive port reads or writes what the transport still holds. -/

theorem State.consume_setRxq (s : State) (r : List Byte) (id : Byte) (p : List Byte) :
    ({ s with rxq := r } : State).consume id p = { s.consume id p with rxq := r } := by
  unfold State.consume
  split_ifs <;> rfl

theorem State.route_setRxq (s : State) (r : List Byte) (id : Byte) (len : Nat) (p : List Byte) :
    ({ s with rxq := r } : State).route id len p = { s.route id len p with rxq := r } := by
  obtain ⟨hreg, h⟩ | ⟨hinvalid, h⟩ | ⟨hvalid, hsize, h⟩ := s.route_cases id len p <;> rw [h]
  · rw [State.route_registered (s := { s with rxq := r }) p hreg]
    exact State.consume_setRxq (s.emit (.dispatch id p)) r id p
  · exact State.route_unregistered (s := { s with rxq := r }) len p hinvalid
  · exact State.route_mismatch (s := { s with rxq := r }) p hvalid hsize

theorem State.processFrame_setRxq (s : State) (r : List Byte) (n : Nat) :
    ({ s with rxq := r } : State).processFrame n = { s.processFrame n with rxq := r } := by
  unfold State.processFrame
  split_ifs
  · rfl
  · exact s.route_setRxq r _ _ _

theorem State.wfStop_setRxq (s : State) (r : List Byte) :
    ({ s with rxq := r } : State).wfStop = { s.wfStop with rxq := r } := by
  obtain hstrm | hstrm := Bool.eq_false_or_eq_true s.strm
  · rw [State.wfStop_streaming hstrm, State.wfStop_streaming (s := { s with rxq := r }) hstrm]
    rfl
  · rw [State.wfStop_buffered hstrm, State.wfStop_buffered (s := { s with rxq := r }) hstrm]
    exact congrArg (fun t : State => { t with st := .ws, strm := false })
      (State.processFrame_setRxq (s.emit .frameEnd) r s.cnt)

theorem State.byteIn_setRxq (s : State) (r : List Byte) (b : Byte) :
    ({ s with rxq := r } : State).byteIn b = { s.byteIn b with rxq := r } := by
  have hview : ({ s with rxq := r } : State).view = s.view := rfl
  rw [State.byteIn_eq, State.byteIn_eq, hview]
  cases selectRx s.view b with
  | wfStop => exact s.wfStop_setRxq r
  | wsStart | wsIgnore | wfDupStart | wfFramingAbort | wfNibAppend | wfIdPair | wfStreamEnter | wfStreamByte
  | wfOverflowAbort => rfl

theorem State.byteIn_rxq (s : State) (b : Byte) : (s.byteIn b).rxq = s.rxq :=
  congrArg (·.rxq) (s.byteIn_setRxq s.rxq b)

theorem State.receiveAll_setRxq (s : State) (r : List Byte) (bs : List Byte) :
    ({ s with rxq := r } : State).receiveAll bs = { s.receiveAll bs with rxq := r } := by
  induction bs generalizing s with
  | nil => rfl
  | cons b bs ih => rw [State.receiveAll_cons, State.byteIn_setRxq, ih, State.receiveAll_cons]

theorem State.receiveAll_inq (s : State) (bs : List Byte) : (s.receiveAll bs).inq = s.inq :=
  congrArg (·.inq) (s.receiveAll_setInq s.inq bs)

/-- R203: BYTE_IN of each byte the transport holds, in order, after which it holds none. -/
theorem State.drain_eq_receiveAll (s : State) (bs : List Byte) :
    ({ s with rxq := bs } : State).drain bs = { s.receiveAll bs with rxq := [] } := by
  induction bs generalizing s with
  | nil => rfl
  | cons b rest ih =>
    calc ({ s with rxq := b :: rest } : State).drain (b :: rest)
        = (({ s with rxq := rest } : State).byteIn b).drain rest := rfl
      _ = ({ s.byteIn b with rxq := rest } : State).drain rest := by rw [State.byteIn_setRxq]
      _ = { s.receiveAll (b :: rest) with rxq := [] } := ih _

theorem exec_poll_eq_receiveAll (s : State) : exec .poll s = .next { s.receiveAll s.rxq with rxq := [] } :=
  congrArg Host.Outcome.next (s.drain_eq_receiveAll s.rxq)

/-- R130: a wire byte presented before the inputs still to come is BYTE_IN, and they stay. -/
theorem step_presented {s : State} (b : Byte) (h : s.Inv) :
    step { s with inq := .txn (.rxByte b) :: s.inq } = .next (s.byteIn b) := by
  rw [step_rxByte (s := { s with inq := .txn (.rxByte b) :: s.inq }) (h.congr rfl) rfl, State.byteIn_setInq]
  exact congrArg Host.Outcome.next (s.byteIn_setInq s.inq b).symm

/-! ### The mode -/

/-- From `s` to `t` the mode is kept, or it becomes RECEIVED with a `Dispatch` of identifier 5 among the events. -/
def State.ModeByResponse (s t : State) : Prop :=
  t.mode = s.mode ∨ t.mode = .received ∧ ∃ p, .dispatch Config.responseId p ∈ newEvents s t

theorem State.ModeByResponse.trans {s t u : State} (hext₁ : s.Extends t) (hext₂ : t.Extends u)
    (h₁ : s.ModeByResponse t) (h₂ : t.ModeByResponse u) : s.ModeByResponse u := by
  rw [State.ModeByResponse, newEvents_trans hext₁ hext₂]
  obtain hkept | ⟨hmode, p, hp⟩ := h₂
  · obtain hkept' | ⟨hmode, p, hp⟩ := h₁
    · exact .inl (hkept.trans hkept')
    · exact .inr ⟨hkept.trans hmode, p, List.mem_append_left _ hp⟩
  · exact .inr ⟨hmode, p, List.mem_append_right _ hp⟩

/-- R164, R204: only the consumer of identifier 5 writes the mode, and it runs on the event that is emitted. -/
theorem State.route_modeByResponse (s : State) (id : Byte) (len : Nat) (p : List Byte) :
    s.ModeByResponse (s.route id len p) := by
  obtain ⟨hreg, h⟩ | ⟨-, h⟩ | ⟨-, -, h⟩ := s.route_cases id len p
  · by_cases hid : id = Config.responseId
    · subst hid
      have hmode : (s.route Config.responseId len p).mode = .received := by
        rw [h]
        exact congrArg State.mode (State.consume_response _ p)
      exact .inr ⟨hmode, p, by simp [newEvents_of_append (State.route_ev_of_registered p hreg)]⟩
    · rw [h, State.consume_of_ne _ p hid]
      exact .inl rfl
  · exact .inl (by rw [h]; rfl)
  · exact .inl (by rw [h]; rfl)

theorem State.processFrame_modeByResponse (s : State) (n : Nat) : s.ModeByResponse (s.processFrame n) := by
  obtain ⟨-, h⟩ | ⟨-, -, h⟩ := s.processFrame_cases n <;> rw [h]
  · exact .inl rfl
  · exact s.route_modeByResponse _ _ _

theorem State.wfStop_modeByResponse (s : State) : s.ModeByResponse s.wfStop := by
  cases hstrm : s.strm with
  | true =>
    rw [State.wfStop_streaming hstrm]
    exact .inl rfl
  | false =>
    have hframe : (s.emit .frameEnd).ModeByResponse ((s.emit .frameEnd).processFrame s.cnt) :=
      State.processFrame_modeByResponse _ _
    rw [State.wfStop_buffered hstrm]
    exact .trans (s.emit_extends _) (State.processFrame_extends (s.emit .frameEnd) s.cnt).close (.inl rfl) hframe

theorem State.receive_modeByResponse (s : State) (op : RxOp) : s.ModeByResponse (s.receive op) := by
  cases op with
  | wfStop => exact s.wfStop_modeByResponse
  | wsStart | wsIgnore | wfDupStart | wfFramingAbort | wfNibAppend | wfIdPair | wfStreamEnter | wfStreamByte
  | wfOverflowAbort => exact .inl rfl

/-- POLL's loop, byte by byte (R203). -/
theorem State.drain_modeByResponse (s : State) (bs : List Byte) : s.ModeByResponse (s.drain bs) := by
  induction bs generalizing s with
  | nil => exact .inl rfl
  | cons b rest ih =>
    have hbyte : s.ModeByResponse (({ s with rxq := rest } : State).byteIn b) := State.receive_modeByResponse _ _
    have hext : s.Extends { s with rxq := rest } := .of_silent rfl rfl rfl
    exact hbyte.trans (hext.trans (State.receive_extends _ _)) (State.drain_extends _ rest) (ih _)

/-- R202, R204, R206: what an operation that completes does to the mode. RESP_HANDLER asked for by itself sets
RECEIVED without an event. -/
theorem exec_mode {i : Instr} {s t : State} (h : exec i s = .next t) :
    s.ModeByResponse t ∨ t.mode = .sent ∨ t.mode = .idle ∨ ((∃ p, i = .respHandler p) ∧ t.mode = .received) := by
  cases effect_of_exec h with
  | received op => exact .inl (s.receive_modeByResponse op)
  | processed n => exact .inl (s.processFrame_modeByResponse n)
  | routed id len p => exact .inl (s.route_modeByResponse id len p)
  | polled => exact .inl (s.drain_modeByResponse _)
  | requested => exact .inr (.inl rfl)
  | stopped => exact .inr (.inr (.inl rfl))
  | responded p => exact .inr (.inr (.inr ⟨⟨p, rfl⟩, rfl⟩))
  | returned | transmitted | registered | cleared => exact .inl (.inl rfl)

/-- R207: a mode that is written is none of the two error modes. -/
theorem exec_mode_kept_or_legal {i : Instr} {s t : State} (h : exec i s = .next t) :
    t.mode = s.mode ∨ t.ModeLegal := by
  obtain (hkept | ⟨hmode, -⟩) | hmode | hmode | ⟨-, hmode⟩ := exec_mode h
  · exact .inl hkept
  all_goals exact .inr (by simp [State.ModeLegal, hmode])

/-- R70: what a transaction decodes to is an operation of a port. -/
theorem encode_decode_ne_none (v : ParserView) (t : Txn) : encode (decode v t) ≠ none := by
  cases t with
  | rxByte b =>
    rw [decode_rxByte]
    cases selectRx v b <;> nofun
  | classify b =>
    simp only [decode, classifyInstr]
    split <;> nofun
  | txCmd | regCfg | rst | nibSplit | nibJoin | dupQual | parity32 | parForce | msgPack | msgUnpack | viewU16
  | viewF88 | wordToBytes | bytesToWord | send | poll | getMessage | stopSession => nofun

end Sys2Proof.Machine

/-!
The statements about the session host: its operations (R202 to R206), POLL as block steps (R203), and the modes
(R207, R209).
-/
namespace Sys2Proof.Proofs.Session

open Sys2Proof Sys2Proof.Machine

/-- Settles O49: the loop and the steps are both BYTE_IN over the same bytes, which reads neither the transport nor
the queue. -/
theorem pollIsOneStepPerByte : Obligations.PollIsOneStepPerByte := by
  intro s hinv
  refine ⟨_, exec_poll_eq_receiveAll s, rfl, s.receiveAll_inq s.rxq, ?steps⟩
  case steps =>
    have hrun := runSteps_rxInputs (s := { s with rxq := [], inq := rxInputs s.rxq }) (q := []) (hinv.congr rfl)
      (List.append_nil _).symm
    rw [hrun, State.receiveAll_setInq { s with rxq := [] }, State.receiveAll_setRxq]

/-- Settles O3: an operation keeps the mode or writes a legal one; the peer's bytes do not write it. -/
theorem noRuleWritesAnErrorMode : Obligations.NoRuleWritesAnErrorMode := by
  refine ⟨?reset, fun i s t h => ?operation, fun s t hs h => ?step⟩
  case reset => exact ⟨nofun, nofun⟩
  case operation =>
    obtain hkept | ⟨hprotocol, htimeout⟩ := exec_mode_kept_or_legal h
    · exact ⟨hkept.symm.trans, hkept.symm.trans⟩
    · exact ⟨fun ht => absurd ht hprotocol, fun ht => absurd ht htimeout⟩
  case step =>
    obtain ⟨-, rfl⟩ | ⟨bs, q, -, rfl⟩ | ⟨x, q, -, hexec⟩ := step_cases h
    · exact hs
    · exact hs
    · obtain hkept | hlegal := exec_mode_kept_or_legal hexec
      · rwa [State.ModeLegal, hkept]
      · exact hlegal

/-- Settles O48: the step is BYTE_IN of the byte taken, which leaves the rest of the transport to the loop. -/
theorem pollLoop : Obligations.PollLoop := by
  refine ⟨fun s hempty => ?empty, fun s u b rest hinv hq hstep => ?taken⟩
  case empty =>
    rw [exec_poll, hempty]
    rfl
  case taken =>
    rw [step_presented (s := { s with rxq := rest }) b (hinv.congr rfl)] at hstep
    injection hstep with hu
    rw [exec_poll, exec_poll, hq, ← hu, State.byteIn_rxq]
    rfl

/-- Settles O54: STOP_SESSION and SEND write other modes, and RESP_HANDLER arrives on no port, so that what is left
is a routed response. -/
theorem onlyAResponseEntersReceived : Obligations.OnlyAResponseEntersReceived := by
  intro s t hstep hs ht
  obtain ⟨-, rfl⟩ | ⟨bs, q, -, rfl⟩ | ⟨x, q, -, hexec⟩ := step_cases hstep
  · exact absurd ht hs
  · exact absurd ht hs
  · obtain (hkept | ⟨-, hdispatch⟩) | hsent | hidle | ⟨⟨p, hp⟩, -⟩ := exec_mode hexec
    · exact absurd (hkept.symm.trans ht) hs
    · exact hdispatch
    · rw [hsent] at ht
      cases ht
    · rw [hidle] at ht
      cases ht
    · exact absurd (congrArg encode hp) (encode_decode_ne_none s.view x)

/-- Settles O47: SEND is the three operations' own functions in turn; a record of four bytes gives a frame of 16. -/
theorem sendEmitsRequest : Obligations.SendEmitsRequest := by
  intro type item hb lb s
  exact ⟨_, _, _, exec_msgPack type item hb lb s, exec_wordToBytes _ s, exec_serFrame 4 _ s, by simp,
    exec_send type item hb lb s⟩

/-- Settles O51: four bytes are the word; of a shorter payload the handler's own state is the next one. -/
theorem respHandlerOnOtherSizes : Obligations.RespHandlerOnOtherSizes := by
  refine ⟨fun s p0 p1 p2 p3 rest => ?long, fun s p _ => ⟨_, exec_respHandler p s, rfl⟩⟩
  case long => rw [exec_respHandler, State.handleResponse_cons]

/-- Settles O50: the word BYTES_TO_WORD returns, the status byte being the rest of the payload. -/
theorem respHandlerStoresWord : Obligations.RespHandlerStoresWord := by
  intro s p0 p1 p2 p3 p4
  refine ⟨_, exec_bytesToWord p0 p1 p2 p3 s, ?_⟩
  rw [exec_respHandler, State.handleResponse_cons]

/-- Settles O52: by whether the mode is RECEIVED; the fields are those MSG_UNPACK names. -/
theorem getMessageReadsWord : Obligations.GetMessageReadsWord := by
  refine ⟨fun s m hmode hm => ?received, fun s hmode => exec_getMessage_of_ne hmode⟩
  case received =>
    subst hm
    exact exec_getMessage_received hmode

/-- Settles O53. -/
theorem stopSessionGoesIdle : Obligations.StopSessionGoesIdle := exec_stopSession

end Sys2Proof.Proofs.Session

/-!
That nothing stops the block (R220, R224): what decides whether an operation completes, and that no operation touches
the inputs still to come (R58).
-/
namespace Sys2Proof.Machine

/-- R220: the rule's condition is all an operation needs to complete; without one it completes in every state. -/
theorem exec_completes_of_admitted {i : Instr} {s : State} (h : i.admitted s.view = true) :
    ∃ t, exec i s = .next t := by
  cases i with
  | wsStart | wsIgnore | wfStop | wfDupStart | wfFramingAbort | wfNibAppend | wfIdPair | wfStreamEnter | wfStreamByte
  | wfOverflowAbort | processFrame => exact ⟨_, whenAdmitted_eq_next h⟩
  | nibSplit | nibJoin | serFrame | classifyStart | classifyStop | classifyNibble | classifyHigh | dupQual | regWrite
  | dispatch | parity32 | parForce | msgPack | msgUnpack | viewU16 | viewF88 | wordToBytes | bytesToWord | reset
  | send | poll | respHandler | getMessage | stopSession => exact ⟨_, rfl⟩

theorem State.receive_inq (s : State) (op : RxOp) : (s.receive op).inq = s.inq := by
  cases op with
  | wfStop => exact congrArg (·.inq) (s.wfStop_setInq s.inq)
  | wsStart | wsIgnore | wfDupStart | wfFramingAbort | wfNibAppend | wfIdPair | wfStreamEnter | wfStreamByte
  | wfOverflowAbort => rfl

/-- R58: the queue is the step's to take from; no operation reads ahead in it or puts an input back. -/
theorem exec_inq {i : Instr} {s t : State} (h : exec i s = .next t) : t.inq = s.inq := by
  cases effect_of_exec h with
  | received op => exact s.receive_inq op
  | processed n => exact congrArg (·.inq) (s.processFrame_setInq s.inq n)
  | routed id len p => exact congrArg (·.inq) (s.route_setInq s.inq id len p)
  | polled =>
    have hdrain : s.drain s.rxq = { s.receiveAll s.rxq with rxq := [] } := s.drain_eq_receiveAll s.rxq
    rw [hdrain]
    exact s.receiveAll_inq s.rxq
  | returned | transmitted | requested | registered | cleared | responded | stopped => rfl

end Sys2Proof.Machine

/-!
The statement about errors: every step completes (R220, R224).
-/
namespace Sys2Proof.Proofs.Exceptions

open Sys2Proof Sys2Proof.Machine

/-- Settles O7: by the head of the queue. A transaction decodes to an operation that its rule admits, since the
invariant bounds `cnt` by the capacity, and the operation leaves the queue as the step's taking left it. -/
theorem everyTransactionCompletes : Obligations.EveryTransactionCompletes := by
  rintro s ⟨⟨hcap, -⟩, hcnt, -⟩
  rcases hq : s.inq with _ | ⟨x | bs, q⟩
  case nil => exact ⟨s, step_nil hq, hq⟩
  case cons.txn =>
    obtain ⟨-, hadm, -⟩ := Encoding.encodeOfDecode s.view x hcap hcnt
    obtain ⟨u, hexec⟩ := exec_completes_of_admitted (s := { s with inq := q }) hadm
    exact ⟨u, (Scope.step_txn_eq_exec_decode hq).trans hexec, exec_inq hexec⟩
  case cons.peer => exact ⟨_, step_peer hq, rfl⟩

end Sys2Proof.Proofs.Exceptions

/-!
The statement about reset: RESET as an operation (R250).
-/
namespace Sys2Proof.Proofs.Reset

open Sys2Proof Sys2Proof.Machine

/-- R250: RESET has no condition; it completes in every state. -/
theorem exec_reset (s : State) : exec .reset s = .next s.blockReset := rfl

/-- R25, R250: the entries drawn are as many as the buffer's capacity. -/
theorem blockReset_buf_length (s : State) : s.blockReset.buf.length = s.params.bufCap := by
  rw [State.blockReset_buf, length_drawNibbles]

/-- Settles O45: RESET's next state is `blockReset`; the registry is the fresh one, in which no entry is valid. -/
theorem resetTransaction : Obligations.ResetTransaction :=
  fun s => ⟨s.blockReset, exec_reset s, s.blockReset_st, s.blockReset_strm, s.blockReset_cnt,
    s.blockReset_valid, s.blockReset_ev, blockReset_buf_length s⟩

end Sys2Proof.Proofs.Reset
